-- ==== Sys2Proof/Word.lean ====
section
/-! DEFINITION. The CORE's widths (rule R7) and the addressing modes with the operand bytes they carry
(rules R101, R102). -/

namespace Sys2Proof

/-- `u8`: A, X, Y, SP, every memory cell (R7, R10). -/
abbrev Byte := BitVec 8

/-- `u16`: PC and every effective address (R7, R10). -/
abbrev Addr := BitVec 16

/-- The cycle counter's width `P_CYCLE_WIDTH` = 64 (R8, R37). -/
abbrev Cycles := BitVec 64

/-- The thirteen mode tags of R102. -/
inductive ModeTag where
  | imp | acc | imm | zp | zpx | zpy | rel | izx | izy | abs | absx | absy | ind
  deriving DecidableEq, Repr

/-- The nine modes that name a memory operand, each with the operand bytes of its format (R101):
one byte for a two-byte instruction, the little-endian word for a three-byte one. -/
inductive Mode where
  | imm (v : Byte)    -- the operand value, the byte at pc0 + 1 (R105)
  | zp (b : Byte)     -- R106
  | zpx (b : Byte)    -- R107
  | zpy (b : Byte)    -- R107
  | izx (b : Byte)    -- R114
  | izy (b : Byte)    -- R115
  | abs (w : Addr)    -- R108
  | absx (w : Addr)   -- R109
  | absy (w : Addr)   -- R109
  deriving DecidableEq, Repr

end Sys2Proof
end

