-- ==== Sys2Proof/Machine/Bits.lean ====
section
/-! DEFINITION. The bit-field, extension and byte-order helpers of R12 and the lengths of R102. -/

namespace Sys2Proof

/-- `hi:lo`, the u16 `hi*256 + lo` (R12). -/
def wordOf (hi lo : Byte) : Addr := hi ++ lo

/-- `w[7:0]` (R11). -/
def loByte (w : Addr) : Byte := w.extractLsb' 0 8

/-- `w[15:8]` (R11). -/
def hiByte (w : Addr) : Byte := w.extractLsb' 8 8

/-- `zext_16(v)` (R12). -/
def zext16 (v : Byte) : Addr := v.setWidth 16

/-- `sext_16(v)` (R12). -/
def sext16 (v : Byte) : Addr := v.signExtend 16

/-- `zext_9(v)` (R12), the width the ADC path adds at (R154). -/
def zext9 (v : Byte) : BitVec 9 := v.setWidth 9

/-- A one-bit flag as a byte, 0 or 1. -/
def bitByte (b : Bool) : Byte := (BitVec.ofBool b).setWidth 8

/-- The length in bytes of an instruction of each mode (R102). -/
def ModeTag.len : ModeTag → Nat
  | .imp => 1 | .acc => 1
  | .imm => 2 | .zp => 2 | .zpx => 2 | .zpy => 2 | .rel => 2 | .izx => 2 | .izy => 2
  | .abs => 3 | .absx => 3 | .absy => 3 | .ind => 3

/-- The mode tag of an operand. -/
def Mode.tag : Mode → ModeTag
  | .imm _ => .imm | .zp _ => .zp | .zpx _ => .zpx | .zpy _ => .zpy
  | .izx _ => .izx | .izy _ => .izy | .abs _ => .abs | .absx _ => .absx | .absy _ => .absy

/-- The length in bytes of an instruction with this operand (R102). -/
def Mode.len (m : Mode) : Nat := m.tag.len

/-- The operand bytes in instruction-stream order: one byte, or the low byte before the high byte (R67, R101). -/
def Mode.bytes : Mode → List Byte
  | .imm v => [v]
  | .zp b => [b] | .zpx b => [b] | .zpy b => [b] | .izx b => [b] | .izy b => [b]
  | .abs w => [loByte w, hiByte w] | .absx w => [loByte w, hiByte w] | .absy w => [loByte w, hiByte w]

end Sys2Proof
end

