-- ==== Sys2Proof/Config.lean ====
section
/-! DEFINITION. The named parameters of R8, but for the bus (Machine/Bus.lean), and the values the
spec gives them. No behaviour of the CORE has an undefined result, so there is no free value here. -/

namespace Sys2Proof

/-- The Boolean parameters of R8. A State carries one such record, which no step writes, so that a claim can be
made for every setting (log 4). -/
structure Params where
  /-- `P_JMP_IND_BUG` (R112, D9). -/
  jmpIndBug : Bool
  /-- `P_EXTRA_UNOFFICIAL` (R310, D3). -/
  extraUnofficial : Bool
  /-- `P_CYCLE_PENALTIES` (R386, D19). -/
  cyclePenalties : Bool
  deriving DecidableEq, Repr

/-- `P_POWER_ON` (R371): the register values before any host call. OPEN in the spec. -/
structure PowerOn where
  a : Byte
  x : Byte
  y : Byte
  sp : Byte
  /-- The packed status byte; its bit 5 is ignored. -/
  p : Byte
  pc : Addr
  deriving DecidableEq, Repr

/-- The values R8 decides: the page-wrap bug is reproduced, the gated bytes fault, base costs only. -/
def Config.params : Params := { jmpIndBug := true, extraUnofficial := false, cyclePenalties := false }

/-- The reference profile of R8 and R371. DESIGN CHOICE (log 2, unsafe): the spec leaves P_POWER_ON open. -/
def Config.powerOn : PowerOn :=
  { a := 0x00, x := 0x00, y := 0x00, sp := 0xFD, p := 0x24, pc := 0x0000 }

end Sys2Proof
end

