-- ==== Sys2Proof/Machine/Bus.lean ====
section
/-! DEFINITION. The bus (R60–R64): the storage, the bus as a parameter with a state of its own, the reference bus, and the
platform bus a system plugs its devices into. -/

namespace Sys2Proof.Machine

/-! ### Storage (R61) -/

/-- Byte storage: addresses strictly rising, no cell that holds what an unlisted one reads as. -/
abbrev Memory := List Host.Cell

/-- What a cell never written reads as (R61). -/
def unlistedByte : Byte := 0

/-- The byte at an address: "the last written value or 0 if never written" (R61). -/
def Memory.read : Memory → Nat → Byte
  | [], _ => unlistedByte
  | c :: rest, a => if c.1 = a then c.2 else Memory.read rest a

/-- The storage without its cell at an address. -/
def Memory.erase (m : Memory) (a : Nat) : Memory := m.filter (fun c => decide (c.1 ≠ a))

/-- A cell put before the first cell of a higher address. -/
def Memory.insert (a : Nat) (v : Byte) : Memory → Memory
  | [] => [(a, v)]
  | c :: rest => if a < c.1 then (a, v) :: c :: rest else c :: Memory.insert a v rest

/-- Storing a byte unconditionally (R61), in the canonical form: a byte an unlisted cell reads as is not listed. -/
def Memory.write (m : Memory) (a : Nat) (v : Byte) : Memory :=
  if v = unlistedByte then m.erase a else Memory.insert a v (m.erase a)

/-- Addresses strictly rising and above `low`. -/
def Memory.risingFrom (low : Nat) : Memory → Bool
  | [] => true
  | c :: rest => decide (low ≤ c.1) && Memory.risingFrom (c.1 + 1) rest

/-- The canonical form: addresses strictly rising, all below 2^16 (R7), no listed byte equal to the unlisted one. -/
def Memory.wf (m : Memory) : Bool :=
  Memory.risingFrom 0 m && m.all (fun c => decide (c.1 < 65536) && decide (c.2 ≠ unlistedByte))

/-- Bytes stored at consecutive addresses from `base`, mod 2^16. -/
def Memory.load (m : Memory) (base : Addr) : List Byte → Memory
  | [] => m
  | v :: vs => Memory.load (m.write base.toNat v) (base + 1) vs

/-! ### The bus as a parameter (R8, R60) -/

/-- `BusState` (R60): the cells of the byte storage, and the state of the other devices. -/
structure BusState (Dev : Type) where
  cells : Memory
  dev : Dev
  deriving DecidableEq, Repr

/-- The contract a bus and each device on it share (R60): a read answers a byte and the next bus state, which may differ from
the one before it (R64); a write answers the next bus state. -/
structure Device (Dev : Type) where
  read : BusState Dev → Addr → Byte × BusState Dev
  write : BusState Dev → Addr → Byte → BusState Dev

/-- The parameter `Bus` (R8, R60): the type of its devices' state, and its two operations. OPEN in the spec (D17), so a State
and every operation over it take a bus as an argument (log 5). -/
structure Bus where
  Dev : Type
  port : Device Dev
  /-- Other agents (the driver, a DMA port) may replace the bus state between two calls after the launch (R80, R345). -/
  hostUpdates : Bool

/-- Byte Storage as a device: no side effect beyond the stored cell (R61). -/
def Device.storage (Dev : Type) : Device Dev where
  read b a := (b.cells.read a.toNat, b)
  write b a v := { b with cells := b.cells.write a.toNat v }

/-- The reference bus: flat Byte Storage and no other device (R61), and no host update after the launch (R80, R345). It is the
bus of a State that names none. -/
abbrev Bus.reference : Bus := { Dev := Unit, port := Device.storage Unit, hostUpdates := false }

/-! ### The platform bus (R62) -/

/-- What a raw address is mapped to: a device, and the mirror mask registered for that address (R62). -/
structure Mapping where
  device : Nat
  mirrorMask : Option Addr
  deriving DecidableEq, Repr

/-- The address the device sees: `addr &= mirror_mask` where a mask is registered (R62). -/
def Mapping.canonical (m : Mapping) (a : Addr) : Addr :=
  match m.mirrorMask with
  | some mask => a &&& mask
  | none => a

/-- The platform bus (R62): an access is dispatched to the device its raw address is mapped to, at the masked address. At an
unmapped address a read answers 0 and a write is dropped. The host may update it between calls (R80). -/
def Bus.platform {Dev : Type} (map : Addr → Option Mapping) (devices : Nat → Device Dev) : Bus where
  Dev := Dev
  port :=
    { read := fun b a =>
        match map a with
        | some m => (devices m.device).read b (m.canonical a)
        | none => (0, b)
      write := fun b a v =>
        match map a with
        | some m => (devices m.device).write b (m.canonical a) v
        | none => b }
  hostUpdates := true

end Sys2Proof.Machine
end

