-- ==== Sys2Proof/Machine/State.lean ====
section
/-! DEFINITION. The CORE's state (R30) as plain data, the reasons a step can stop, and the state after reset. -/

namespace Sys2Proof.Machine

/-- The seven stored flag bits of P (R34). U is not stored: it reads 1 always (R49, D6). -/
@[ext]
structure Flags where
  n : Bool
  v : Bool
  b : Bool
  d : Bool
  i : Bool
  z : Bool
  c : Bool
  deriving DecidableEq, Repr

/-- The run state (R38). -/
inductive RunState where
  | running
  /-- The unimplemented-opcode fault has been taken: the opcode byte and its address (R331). -/
  | faulted (op : Byte) (pc0 : Addr)
  deriving DecidableEq, Repr

/-- One bus transaction: one byte read or written at one address (R65). -/
inductive Access where
  | read (addr : Addr) (value : Byte)
  | write (addr : Addr) (value : Byte)
  deriving DecidableEq, Repr

/-- The CORE's state (R30) with the state of the bus it stands on. The bus is a parameter (R8, R60), by default the reference
bus (R61), so `State` alone is the machine on the reference bus; `Dev` is always that bus's own device state. -/
@[ext]
structure State (B : Bus := Bus.reference) (Dev : Type := B.Dev) where
  /-- R31 -/
  a : Byte
  /-- R32 -/
  x : Byte
  /-- R33 -/
  y : Byte
  /-- R35 -/
  sp : Byte
  /-- R36 -/
  pc : Addr
  /-- R34, R44–R51 -/
  p : Flags
  /-- R37 -/
  cyc : Cycles
  /-- R38 -/
  run : RunState
  /-- The byte storage's part of the bus state (R60, R61). -/
  mem : Memory
  /-- The other devices' part of the bus state (R60, R64). The reference bus has no other device, and a value of Unit. -/
  dev : Dev
  /-- The model's own field: the bus transactions of the step or host call that produced this state, oldest first. R64
  and R66 make them observable; nothing reads the field (log 3). -/
  bus : List Access
  /-- The model's own field: the parameters of R8, which no step writes (log 4). -/
  par : Params
  deriving DecidableEq, Repr

/-- Why a step or a host call has no transition. -/
inductive Fault where
  /-- Raised by step, nmi() and reset() of a CORE whose run state is Faulted(op, pc0): no transition is enabled there
  (R38, R376, K14). Safe: the spec's CORE stops there too. -/
  | unimplementedOpcode (op : Byte) (pc0 : Addr)
  deriving DecidableEq, Repr

/-- Why an instruction has no meaning. -/
inductive Refusal where
  /-- Raised by exec's arm of an instruction not modelled yet. Safe: nothing is claimed of it. No arm raises it. -/
  | notModelled (mnemonic : String)
  deriving DecidableEq, Repr

/-- Power-on with the reference profile, no memory set, the parameters R8 decides, then one `reset()` call (R370, R371):
PC holds the vector's two zero bytes, and the two vector reads are the call's bus transactions. A, X, Y, SP and P are
DESIGN CHOICE values: the spec leaves P_POWER_ON open (log 2, unsafe). -/
def State.reset : State where
  a := Config.powerOn.a
  x := Config.powerOn.x
  y := Config.powerOn.y
  sp := Config.powerOn.sp
  pc := 0x0000
  p := { n := false, v := false, b := false, d := false, i := true, z := false, c := false }
  cyc := 0
  run := .running
  mem := []
  dev := ()
  bus := [.read 0xFFFC 0x00, .read 0xFFFD 0x00]
  par := Config.params

end Sys2Proof.Machine
end

