-- ==== Sys2Proof/Machine/Flags.lean ====
section
/-! DEFINITION. The status byte (R34) and the ALU functions of R153 to R161: everything a flag is computed from. -/

namespace Sys2Proof.Machine

/-- `pack(P)`: N V U B D I Z C from bit 7 to bit 0, U = 1 (R34). -/
def pack (p : Flags) : Byte :=
  BitVec.ofBool p.n ++ BitVec.ofBool p.v ++ 1#1 ++ BitVec.ofBool p.b ++
  BitVec.ofBool p.d ++ BitVec.ofBool p.i ++ BitVec.ofBool p.z ++ BitVec.ofBool p.c

/-- `unpack(v)`: each stored flag from its bit of v; bit 5 is ignored (R34). -/
def unpack (v : Byte) : Flags :=
  { n := v.getLsbD 7, v := v.getLsbD 6, b := v.getLsbD 4, d := v.getLsbD 3,
    i := v.getLsbD 2, z := v.getLsbD 1, c := v.getLsbD 0 }

/-- What PLP and RTI make of a pulled byte: C, Z, I, D, V, N from it, the stored B cleared (R273, R291). -/
def unpackPulled (v : Byte) : Flags := { unpack v with b := false }

/-- The byte PHP pushes: `pack(P) | $30` (R272). -/
def pushedByPhp (p : Flags) : Byte := pack p ||| 0x30

/-- The byte NMI entry pushes: `(pack(P) & ~$10) | $20` (R342). -/
def pushedByNmi (p : Flags) : Byte := (pack p &&& ~~~0x10) ||| 0x20

/-- `SetNZ(v)` (R153). -/
def Flags.setNZ (p : Flags) (v : Byte) : Flags := { p with z := v == 0, n := v.getLsbD 7 }

/-- The result of an ADC-path addition. -/
structure Sum where
  r : Byte
  c : Bool
  v : Bool
  deriving DecidableEq, Repr

/-- `AddWithCarry(a, b, cin)`: the two-stage ADC path, 9 bits wide (R154). -/
def addWithCarry (a b : Byte) (cin : Bool) : Sum :=
  let s1 := zext9 a + zext9 b
  let s2 := zext9 (s1.setWidth 8) + (BitVec.ofBool cin).setWidth 9
  let r : Byte := s2.setWidth 8
  { r := r
    c := s1.getLsbD 8 || s2.getLsbD 8
    v := (~~~(a ^^^ b) &&& (a ^^^ r)).getLsbD 7 }

/-- `SubWithBorrow(a, m, cin)`: the ADC path with the operand inverted (R155). -/
def subWithBorrow (a m : Byte) (cin : Bool) : Sum := addWithCarry a (~~~m) cin

/-- The flags an ADC-path result leaves: C, V, and N and Z of the result (R200, R201). -/
def Flags.setSum (p : Flags) (s : Sum) : Flags := ({ p with c := s.c, v := s.v }).setNZ s.r

/-- `Compare(reg, m)`: C when reg ≥ m unsigned, Z when equal, N bit 7 of the difference; V is kept (R156). -/
def Flags.compare (p : Flags) (reg m : Byte) : Flags :=
  { p with c := m.ule reg, z := reg == m, n := (reg - m).getLsbD 7 }

/-- BIT: Z from A & M, N and V from bits 7 and 6 of M (R205). -/
def Flags.bitTest (p : Flags) (a m : Byte) : Flags :=
  { p with z := (a &&& m) == 0, n := m.getLsbD 7, v := m.getLsbD 6 }

/-- A shifted value and the bit shifted out. -/
structure Shifted where
  r : Byte
  c : Bool
  deriving DecidableEq, Repr

/-- `ASLf(v)` (R157). -/
def aslF (v : Byte) : Shifted := { r := v <<< 1, c := v.getLsbD 7 }

/-- `LSRf(v)` (R157). -/
def lsrF (v : Byte) : Shifted := { r := v >>> 1, c := v.getLsbD 0 }

/-- `ROLf(v, cin)` (R157). -/
def rolF (v : Byte) (cin : Bool) : Shifted := { r := (v <<< 1) ||| bitByte cin, c := v.getLsbD 7 }

/-- `RORf(v, cin)` (R157). -/
def rorF (v : Byte) (cin : Bool) : Shifted := { r := (v >>> 1) ||| (bitByte cin <<< 7), c := v.getLsbD 0 }

/-- The flags a shift leaves: C the bit shifted out, then N and Z of the result (R157). -/
def Flags.setShifted (p : Flags) (s : Shifted) : Flags := ({ p with c := s.c }).setNZ s.r

/-- `Inc(v)` (R161). -/
def incF (v : Byte) : Byte := v + 1

/-- `Dec(v)` (R161). -/
def decF (v : Byte) : Byte := v - 1

end Sys2Proof.Machine
end

