-- ==== Sys2Proof/Machine/Ops.lean ====
section
/-! DEFINITION. The named operations over memory, registers, the bus and the stack, entering a handler and returning
from one, and the unimplemented-opcode fault. -/

namespace Sys2Proof.Machine

variable {B : Bus}

/-! ### The bus (R60, R65, R66) -/

/-- The bus state a State holds (R60). -/
def State.busState (s : State B) : BusState B.Dev := { cells := s.mem, dev := s.dev }

/-- The bus state replaced. -/
def State.setBusState (s : State B) (b : BusState B.Dev) : State B := { s with mem := b.cells, dev := b.dev }

/-- The byte a bus read would answer, without a transaction. -/
def State.peek (s : State B) (a : Addr) : Byte := (B.port.read s.busState a).1

/-- The bus transactions of a new step or host call begin. -/
def State.newTransition (s : State B) : State B := { s with bus := [] }

/-- `MemRead(addr, 1)`: the bus's byte, and the state after the transaction, the bus state threaded (R14, R60, R64). -/
def State.memRead (s : State B) (a : Addr) : Byte × State B :=
  let r := B.port.read s.busState a
  (r.1, { s with mem := r.2.cells, dev := r.2.dev, bus := s.bus ++ [.read a r.1] })

/-- `MemWrite(addr, 1, v)` (R14, R60). -/
def State.memWrite (s : State B) (a : Addr) (v : Byte) : State B :=
  let b := B.port.write s.busState a v
  { s with mem := b.cells, dev := b.dev, bus := s.bus ++ [.write a v] }

/-- A little-endian 16-bit quantity as two byte reads, the low byte first (R65, R67). -/
def State.readPair (s : State B) (lo hi : Addr) : Addr × State B :=
  let l := s.memRead lo
  let h := l.2.memRead hi
  (wordOf h.1 l.1, h.2)

/-- `Read16(addr)`: the high byte at addr + 1 mod 2^16 (R14, R68). -/
def State.read16 (s : State B) (a : Addr) : Addr × State B := s.readPair a (a + 1)

/-! ### Registers -/

def State.setA (s : State B) (v : Byte) : State B := { s with a := v }
def State.setX (s : State B) (v : Byte) : State B := { s with x := v }
def State.setY (s : State B) (v : Byte) : State B := { s with y := v }
def State.setSp (s : State B) (v : Byte) : State B := { s with sp := v }
def State.setPc (s : State B) (v : Addr) : State B := { s with pc := v }
def State.setP (s : State B) (v : Flags) : State B := { s with p := v }

/-- `SetNZ(v)` (R153). -/
def State.setNZ (s : State B) (v : Byte) : State B := s.setP (s.p.setNZ v)

/-- `cyc <- (cyc + n) mod 2^64` (R385). -/
def State.addCycles (s : State B) (n : Nat) : State B := { s with cyc := s.cyc + BitVec.ofNat 64 n }

/-! ### The stack (R35, R40–R43) -/

/-- The address of the stack slot an SP value names: `$0100 | SP` (R35). -/
def stackAddr (sp : Byte) : Addr := 0x0100 ||| zext16 sp

/-- `Push(v)` (R40). -/
def State.push (s : State B) (v : Byte) : State B := (s.memWrite (stackAddr s.sp) v).setSp (s.sp - 1)

/-- `Pull()` (R41). -/
def State.pull (s : State B) : Byte × State B :=
  let t := s.setSp (s.sp + 1)
  t.memRead (stackAddr t.sp)

/-- `Push16(w)`: the high byte first (R42). -/
def State.push16 (s : State B) (w : Addr) : State B := (s.push (hiByte w)).push (loByte w)

/-- `Pull16()`: the low byte first (R43). -/
def State.pull16 (s : State B) : Addr × State B :=
  let lo := s.pull
  let hi := lo.2.pull
  (wordOf hi.1 lo.1, hi.2)

/-! ### Entering a handler and returning from one (R290, R291, R342, R370) -/

/-- `VEC_NMI` (R75). -/
def vecNmi : Addr := 0xFFFA
/-- `VEC_RESET` (R75). -/
def vecReset : Addr := 0xFFFC
/-- `VEC_BRK` (R75). -/
def vecBrk : Addr := 0xFFFE

/-- PC from the two bytes of a vector (R75). -/
def State.loadVector (s : State B) (vec : Addr) : State B :=
  let t := s.read16 vec
  t.2.setPc t.1

/-- Entering a handler, shared by BRK and NMI (R290, R342, R343): push the return address and the status byte, set I
after the push, load PC from the vector. -/
def State.enterHandler (s : State B) (ret : Addr) (status : Byte) (vec : Addr) : State B :=
  let t := (s.push16 ret).push status
  (t.setP { t.p with i := true }).loadVector vec

/-- Returning from a handler (R291, R348): pull the status, then the return address; no +1. -/
def State.returnFromHandler (s : State B) : State B :=
  let st := s.pull
  let ret := (st.2.setP (unpackPulled st.1)).pull16
  ret.2.setPc ret.1

/-- The unimplemented-opcode fault: `run <- Faulted(op, pc0)`, nothing else changes (R331). -/
def State.raiseUnimplemented (s : State B) (op : Byte) : State B := { s with run := .faulted op s.pc }

/-- The cause code of the one exception (R331, D34). -/
def Fault.causeCode : Fault → Nat
  | .unimplementedOpcode _ _ => 1

end Sys2Proof.Machine
end

