-- ==== Sys2Proof/Machine/Operands.lean ====
section
/-! DEFINITION. The addressing modes (R104–R116), the access classes of R162 and the shape every instruction shares:
resolve the mode, PC <- pcn, the operation, the cycle cost (R150, R152). A meaning is called at pc0, after the step has read
the instruction's bytes. -/

namespace Sys2Proof.Machine

variable {B : Bus}

/-! ### Effective addresses -/

/-- The zero-page address `zext_16((b + index) mod 256)` (R106, R107, R114). -/
def zeroPage (b index : Byte) : Addr := zext16 (b + index)

/-- The effective address of an operand and the state after the pointer reads of the indirect modes. The immediate
operand's address is pc0 + 1. -/
def State.resolve (s : State B) : Mode → Addr × State B
  | .imm _ => (s.pc + 1, s)                                         -- R105
  | .zp b => (zeroPage b 0, s)                                      -- R106
  | .zpx b => (zeroPage b s.x, s)                                   -- R107
  | .zpy b => (zeroPage b s.y, s)                                   -- R107
  | .abs w => (w, s)                                                -- R108
  | .absx w => (w + zext16 s.x, s)                                  -- R109
  | .absy w => (w + zext16 s.y, s)                                  -- R109
  | .izx b => s.readPair (zeroPage b s.x) (zeroPage (b + s.x) 1)    -- R114
  | .izy b =>                                                       -- R115
    let ptr := s.readPair (zeroPage b 0) (zeroPage b 1)
    (ptr.1 + zext16 s.y, ptr.2)

/-- The address an indexed mode adds its index to: the operand word or the pointer value (R116). -/
def State.indexBase (s : State B) : Mode → Option Addr
  | .absx w => some w
  | .absy w => some w
  | .izy b => some (s.readPair (zeroPage b 0) (zeroPage b 1)).1
  | .imm _ | .zp _ | .zpx _ | .zpy _ | .izx _ | .abs _ => none

/-- Two addresses lie in different pages (R116). -/
def pagesDiffer (v w : Addr) : Bool := hiByte v != hiByte w

/-- The indexed access crosses a page (R116). -/
def State.crossesPage (s : State B) (m : Mode) : Bool :=
  match s.indexBase m with
  | some base => pagesDiffer base (s.resolve m).1
  | none => false

/-- `M <- MemRead(EA, 1)` of a Read-class operand. For the immediate mode this read is the fetch of the operand byte, which
the step has made (R105, R162). -/
def State.readOperand (s : State B) (m : Mode) : Byte × State B :=
  match m with
  | .imm v => (v, s)
  | .zp _ | .zpx _ | .zpy _ | .izx _ | .izy _ | .abs _ | .absx _ | .absy _ =>
    let e := s.resolve m
    e.2.memRead e.1

/-- The branch target `T = (pcn + sext_16(d)) mod 2^16`, where pcn = pc0 + 2 (R110). -/
def branchTarget (pc0 : Addr) (d : Byte) : Addr := pc0 + 2 + sext16 d

/-- The address of an indirect target's high byte: in the same page with the bug, else the next address (R112). -/
def indirectHigh (bug : Bool) (ptr : Addr) : Addr :=
  if bug then (ptr &&& 0xFF00) ||| ((ptr + 1) &&& 0x00FF) else ptr + 1

/-! ### Cycle costs (R385, R386) -/

/-- The base cost of a Read-class instruction in each mode (opcode_table.json, "cycles"). -/
def readCost : Mode → Nat
  | .imm _ => 2 | .zp _ => 3 | .zpx _ => 4 | .zpy _ => 4 | .abs _ => 4 | .absx _ => 4 | .absy _ => 4
  | .izx _ => 6 | .izy _ => 5

/-- The base cost of a Write-class instruction in each mode. No such instruction has an immediate form; the value given
there is unused. -/
def writeCost : Mode → Nat
  | .zp _ => 3 | .zpx _ => 4 | .zpy _ => 4 | .abs _ => 4 | .absx _ => 5 | .absy _ => 5
  | .izx _ => 6 | .izy _ => 6 | .imm _ => 0

/-- The base cost of a Read-modify-write instruction, the fused ones included, in each mode. No such instruction has an
immediate or zero page,Y form; the values given there are unused. -/
def modifyCost : Mode → Nat
  | .zp _ => 5 | .zpx _ => 6 | .abs _ => 6 | .absx _ => 7 | .absy _ => 7
  | .izx _ => 8 | .izy _ => 8 | .imm _ => 0 | .zpy _ => 0

/-- The Read class's penalty: +1 on a page crossing, only under P_CYCLE_PENALTIES (R386). -/
def State.readPenalty (s : State B) (m : Mode) : Nat :=
  if s.par.cyclePenalties && s.crossesPage m then 1 else 0

/-- A taken branch's penalty: +1, and +1 more when target and pcn lie in different pages (R386). -/
def branchPenalty (par : Params) (pcn target : Addr) : Nat :=
  if par.cyclePenalties then (if pagesDiffer pcn target then 2 else 1) else 0

/-! ### The access classes (R162) -/

/-- The address after an instruction of `n` bytes (R14). -/
def State.pcn (s : State B) (n : Nat) : Addr := s.pc + BitVec.ofNat 16 n

/-- Register-only: no data access at an effective address. -/
def registerClass (cost : Nat) (op : State B → State B) (s : State B) : Host.Outcome (State B) Fault Refusal :=
  .next ((op (s.setPc (s.pcn 1))).addCycles cost)

/-- Read: one read of EA, then the operation on the byte read. -/
def readClass (m : Mode) (op : Byte → State B → State B) (s : State B) : Host.Outcome (State B) Fault Refusal :=
  let r := s.readOperand m
  .next ((op r.1 (r.2.setPc (s.pcn m.len))).addCycles (readCost m + s.readPenalty m))

/-- Write: one write of EA and no read. -/
def writeClass (m : Mode) (value : State B → Byte) (s : State B) : Host.Outcome (State B) Fault Refusal :=
  let e := s.resolve m
  let t := e.2.setPc (s.pcn m.len)
  .next ((t.memWrite e.1 (value t)).addCycles (writeCost m))

/-- Read-modify-write: one read of EA, the first micro-operation (its result and the state with its carry), one write of EA,
then what follows the write, which gets the written byte and does not read EA again (R162, R300). -/
def modifyClass (m : Mode) (micro : Byte → State B → Byte × State B) (after : Byte → State B → State B) (s : State B) :
    Host.Outcome (State B) Fault Refusal :=
  let e := s.resolve m
  let r := e.2.memRead e.1
  let u := micro r.1 (r.2.setPc (s.pcn m.len))
  .next ((after u.1 (u.2.memWrite e.1 u.1)).addCycles (modifyCost m))

/-- A conditional branch: `if cond(P): PC <- T`, else PC stays pcn (R250). -/
def branchClass (taken : Bool) (d : Byte) (s : State B) : Host.Outcome (State B) Fault Refusal :=
  let t := branchTarget s.pc d
  if taken then .next ((s.setPc t).addCycles (2 + branchPenalty s.par (s.pcn 2) t))
  else .next ((s.setPc (s.pcn 2)).addCycles 2)

/-- A gated instruction: its meaning when P_EXTRA_UNOFFICIAL is true, else the unimplemented-opcode fault (R310). -/
def gated (op : Byte) (meaning : State B → Host.Outcome (State B) Fault Refusal) (s : State B) :
    Host.Outcome (State B) Fault Refusal :=
  if s.par.extraUnofficial then meaning s else .next (s.raiseUnimplemented op)

/-! ### The micro-operations that instructions share -/

/-- ADC of an operand into A (R200). -/
def State.adcA (s : State B) (m : Byte) : State B :=
  let r := addWithCarry s.a m s.p.c
  (s.setA r.r).setP (s.p.setSum r)

/-- SBC of an operand from A (R201). -/
def State.sbcA (s : State B) (m : Byte) : State B :=
  let r := subWithBorrow s.a m s.p.c
  (s.setA r.r).setP (s.p.setSum r)

/-- `A <- v; SetNZ(A)`. -/
def State.loadA (s : State B) (v : Byte) : State B := (s.setA v).setNZ v
/-- `X <- v; SetNZ(X)`. -/
def State.loadX (s : State B) (v : Byte) : State B := (s.setX v).setNZ v
/-- `Y <- v; SetNZ(Y)`. -/
def State.loadY (s : State B) (v : Byte) : State B := (s.setY v).setNZ v

/-- `A <- A & v; SetNZ(A)` (R202). -/
def State.andA (s : State B) (v : Byte) : State B := s.loadA (s.a &&& v)
/-- `A <- A | v; SetNZ(A)` (R203). -/
def State.oraA (s : State B) (v : Byte) : State B := s.loadA (s.a ||| v)
/-- `A <- A ^ v; SetNZ(A)` (R204). -/
def State.eorA (s : State B) (v : Byte) : State B := s.loadA (s.a ^^^ v)

/-- `Compare(reg, m)` (R156). -/
def State.compareWith (s : State B) (reg m : Byte) : State B := s.setP (s.p.compare reg m)

/-- A shift or rotate of A: `P.C <- c; A <- r; SetNZ(r)` (R230–R236). -/
def State.shiftA (s : State B) (f : Byte → Shifted) : State B :=
  let r := f s.a
  (s.setA r.r).setP (s.p.setShifted r)

/-- A shift or rotate as the first micro-operation: its result, and C <- the bit shifted out (R157). -/
def shiftMicro (f : Byte → Bool → Shifted) (m : Byte) (s : State B) : Byte × State B :=
  let r := f m s.p.c
  (r.r, s.setP { s.p with c := r.c })

/-- Inc or Dec as the first micro-operation: no flag (R161). -/
def plainMicro (f : Byte → Byte) (m : Byte) (s : State B) : Byte × State B := (f m, s)

end Sys2Proof.Machine
end

