-- ==== Sys2Proof/Machine/Arith.lean ====
section
/-! DEFINITION. Arithmetic, logic, compare, increment and decrement (42_arith_logic_compare.md). -/

namespace Sys2Proof.Machine

variable {B : Bus}

/-- ADC (R200). -/
def execAdc (m : Mode) (s : State B) : Host.Outcome (State B) Fault Refusal :=
  readClass m (fun v t => t.adcA v) s

/-- SBC (R201). -/
def execSbc (m : Mode) (s : State B) : Host.Outcome (State B) Fault Refusal :=
  readClass m (fun v t => t.sbcA v) s

/-- AND (R202). -/
def execAnd (m : Mode) (s : State B) : Host.Outcome (State B) Fault Refusal :=
  readClass m (fun v t => t.andA v) s

/-- ORA (R203). -/
def execOra (m : Mode) (s : State B) : Host.Outcome (State B) Fault Refusal :=
  readClass m (fun v t => t.oraA v) s

/-- EOR (R204). -/
def execEor (m : Mode) (s : State B) : Host.Outcome (State B) Fault Refusal :=
  readClass m (fun v t => t.eorA v) s

/-- BIT (R205). -/
def execBit (m : Mode) (s : State B) : Host.Outcome (State B) Fault Refusal :=
  readClass m (fun v t => t.setP (t.p.bitTest t.a v)) s

/-- CMP (R206). -/
def execCmp (m : Mode) (s : State B) : Host.Outcome (State B) Fault Refusal :=
  readClass m (fun v t => t.compareWith t.a v) s

/-- CPX (R207). -/
def execCpx (m : Mode) (s : State B) : Host.Outcome (State B) Fault Refusal :=
  readClass m (fun v t => t.compareWith t.x v) s

/-- CPY (R208). -/
def execCpy (m : Mode) (s : State B) : Host.Outcome (State B) Fault Refusal :=
  readClass m (fun v t => t.compareWith t.y v) s

/-- INC (R209). -/
def execInc (m : Mode) (s : State B) : Host.Outcome (State B) Fault Refusal :=
  modifyClass m (plainMicro incF) (fun r t => t.setNZ r) s

/-- DEC (R210). -/
def execDec (m : Mode) (s : State B) : Host.Outcome (State B) Fault Refusal :=
  modifyClass m (plainMicro decF) (fun r t => t.setNZ r) s

/-- INX (R211). -/
def execInx (s : State B) : Host.Outcome (State B) Fault Refusal :=
  registerClass 2 (fun t => t.loadX (incF t.x)) s

/-- INY (R212). -/
def execIny (s : State B) : Host.Outcome (State B) Fault Refusal :=
  registerClass 2 (fun t => t.loadY (incF t.y)) s

/-- DEX (R213). -/
def execDex (s : State B) : Host.Outcome (State B) Fault Refusal :=
  registerClass 2 (fun t => t.loadX (decF t.x)) s

/-- DEY (R214). -/
def execDey (s : State B) : Host.Outcome (State B) Fault Refusal :=
  registerClass 2 (fun t => t.loadY (decF t.y)) s

end Sys2Proof.Machine
end

