-- ==== Sys2Proof/Machine/Control.lean ====
section
/-! DEFINITION. Branches, jumps, call and return (44_control_flow.md). -/

namespace Sys2Proof.Machine

variable {B : Bus}

/-- BPL (R251). -/
def execBpl (d : Byte) (s : State B) : Host.Outcome (State B) Fault Refusal :=
  branchClass (!s.p.n) d s

/-- BMI (R252). -/
def execBmi (d : Byte) (s : State B) : Host.Outcome (State B) Fault Refusal :=
  branchClass s.p.n d s

/-- BVC (R253). -/
def execBvc (d : Byte) (s : State B) : Host.Outcome (State B) Fault Refusal :=
  branchClass (!s.p.v) d s

/-- BVS (R254). -/
def execBvs (d : Byte) (s : State B) : Host.Outcome (State B) Fault Refusal :=
  branchClass s.p.v d s

/-- BCC (R255). -/
def execBcc (d : Byte) (s : State B) : Host.Outcome (State B) Fault Refusal :=
  branchClass (!s.p.c) d s

/-- BCS (R256). -/
def execBcs (d : Byte) (s : State B) : Host.Outcome (State B) Fault Refusal :=
  branchClass s.p.c d s

/-- BNE (R257). -/
def execBne (d : Byte) (s : State B) : Host.Outcome (State B) Fault Refusal :=
  branchClass (!s.p.z) d s

/-- BEQ (R258). -/
def execBeq (d : Byte) (s : State B) : Host.Outcome (State B) Fault Refusal :=
  branchClass s.p.z d s

/-- JMP absolute: no read at EA (R259). -/
def execJmp (w : Addr) (s : State B) : Host.Outcome (State B) Fault Refusal :=
  .next ((s.setPc w).addCycles 3)

/-- JMP indirect: the target is read from the pointer w (R111, R112, R260). -/
def execJmpInd (w : Addr) (s : State B) : Host.Outcome (State B) Fault Refusal :=
  let t := s.readPair w (indirectHigh s.par.jmpIndBug w)
  .next ((t.2.setPc t.1).addCycles 5)

/-- JSR: push pcn - 1, the address of its last byte; its operand bytes were read before (R261). -/
def execJsr (w : Addr) (s : State B) : Host.Outcome (State B) Fault Refusal :=
  .next (((s.push16 (s.pcn 3 - 1)).setPc w).addCycles 6)

/-- RTS: the pulled address plus 1 (R262). -/
def execRts (s : State B) : Host.Outcome (State B) Fault Refusal :=
  let t := s.pull16
  .next ((t.2.setPc (t.1 + 1)).addCycles 6)

end Sys2Proof.Machine
end

