-- ==== Sys2Proof/Machine/LoadStore.lean ====
section
/-! DEFINITION. Loads, stores and register transfers (41_load_store_transfer.md). -/

namespace Sys2Proof.Machine

variable {B : Bus}

/-- LDA (R180). -/
def execLda (m : Mode) (s : State B) : Host.Outcome (State B) Fault Refusal :=
  readClass m (fun v t => t.loadA v) s

/-- LDX (R181). -/
def execLdx (m : Mode) (s : State B) : Host.Outcome (State B) Fault Refusal :=
  readClass m (fun v t => t.loadX v) s

/-- LDY (R182). -/
def execLdy (m : Mode) (s : State B) : Host.Outcome (State B) Fault Refusal :=
  readClass m (fun v t => t.loadY v) s

/-- STA (R183). -/
def execSta (m : Mode) (s : State B) : Host.Outcome (State B) Fault Refusal :=
  writeClass m (fun t => t.a) s

/-- STX (R184). -/
def execStx (m : Mode) (s : State B) : Host.Outcome (State B) Fault Refusal :=
  writeClass m (fun t => t.x) s

/-- STY (R185). -/
def execSty (m : Mode) (s : State B) : Host.Outcome (State B) Fault Refusal :=
  writeClass m (fun t => t.y) s

/-- TAX (R186). -/
def execTax (s : State B) : Host.Outcome (State B) Fault Refusal :=
  registerClass 2 (fun t => t.loadX t.a) s

/-- TAY (R187). -/
def execTay (s : State B) : Host.Outcome (State B) Fault Refusal :=
  registerClass 2 (fun t => t.loadY t.a) s

/-- TXA (R188). -/
def execTxa (s : State B) : Host.Outcome (State B) Fault Refusal :=
  registerClass 2 (fun t => t.loadA t.x) s

/-- TYA (R189). -/
def execTya (s : State B) : Host.Outcome (State B) Fault Refusal :=
  registerClass 2 (fun t => t.loadA t.y) s

/-- TSX (R190). -/
def execTsx (s : State B) : Host.Outcome (State B) Fault Refusal :=
  registerClass 2 (fun t => t.loadX t.sp) s

/-- TXS: the one transfer that sets no flag (R191). -/
def execTxs (s : State B) : Host.Outcome (State B) Fault Refusal :=
  registerClass 2 (fun t => t.setSp t.x) s

end Sys2Proof.Machine
end

