-- ==== Sys2Proof/Machine/Shift.lean ====
section
/-! DEFINITION. Shifts and rotates (43_shift_rotate.md). -/

namespace Sys2Proof.Machine

variable {B : Bus}

/-- ASL A (R230). -/
def execAslA (s : State B) : Host.Outcome (State B) Fault Refusal :=
  registerClass 2 (fun t => t.shiftA aslF) s

/-- ASL M (R231). -/
def execAsl (m : Mode) (s : State B) : Host.Outcome (State B) Fault Refusal :=
  modifyClass m (shiftMicro fun v _ => aslF v) (fun r t => t.setNZ r) s

/-- LSR A (R232). -/
def execLsrA (s : State B) : Host.Outcome (State B) Fault Refusal :=
  registerClass 2 (fun t => t.shiftA lsrF) s

/-- LSR M (R233). -/
def execLsr (m : Mode) (s : State B) : Host.Outcome (State B) Fault Refusal :=
  modifyClass m (shiftMicro fun v _ => lsrF v) (fun r t => t.setNZ r) s

/-- ROL A (R234). -/
def execRolA (s : State B) : Host.Outcome (State B) Fault Refusal :=
  registerClass 2 (fun t => t.shiftA fun v => rolF v t.p.c) s

/-- ROL M (R235). -/
def execRol (m : Mode) (s : State B) : Host.Outcome (State B) Fault Refusal :=
  modifyClass m (shiftMicro rolF) (fun r t => t.setNZ r) s

/-- ROR A (R236). -/
def execRorA (s : State B) : Host.Outcome (State B) Fault Refusal :=
  registerClass 2 (fun t => t.shiftA fun v => rorF v t.p.c) s

/-- ROR M (R237). -/
def execRor (m : Mode) (s : State B) : Host.Outcome (State B) Fault Refusal :=
  modifyClass m (shiftMicro rorF) (fun r t => t.setNZ r) s

end Sys2Proof.Machine
end

