-- ==== Sys2Proof/Machine/StackFlag.lean ====
section
/-! DEFINITION. Stack instructions, flag instructions and NOP $EA (45_stack_flag_misc.md). -/

namespace Sys2Proof.Machine

variable {B : Bus}

/-- PHA (R270). -/
def execPha (s : State B) : Host.Outcome (State B) Fault Refusal :=
  registerClass 3 (fun t => t.push t.a) s

/-- PLA (R271). -/
def execPla (s : State B) : Host.Outcome (State B) Fault Refusal :=
  registerClass 4 (fun t => t.pull.2.loadA t.pull.1) s

/-- PHP: the pushed byte has B = 1 and U = 1 (R272). -/
def execPhp (s : State B) : Host.Outcome (State B) Fault Refusal :=
  registerClass 3 (fun t => t.push (pushedByPhp t.p)) s

/-- PLP: the stored B is cleared (R273). -/
def execPlp (s : State B) : Host.Outcome (State B) Fault Refusal :=
  registerClass 4 (fun t => t.pull.2.setP (unpackPulled t.pull.1)) s

/-- CLC (R274). -/
def execClc (s : State B) : Host.Outcome (State B) Fault Refusal :=
  registerClass 2 (fun t => t.setP { t.p with c := false }) s

/-- SEC (R275). -/
def execSec (s : State B) : Host.Outcome (State B) Fault Refusal :=
  registerClass 2 (fun t => t.setP { t.p with c := true }) s

/-- CLI: it enables nothing (R276). -/
def execCli (s : State B) : Host.Outcome (State B) Fault Refusal :=
  registerClass 2 (fun t => t.setP { t.p with i := false }) s

/-- SEI (R277). -/
def execSei (s : State B) : Host.Outcome (State B) Fault Refusal :=
  registerClass 2 (fun t => t.setP { t.p with i := true }) s

/-- CLD (R278). -/
def execCld (s : State B) : Host.Outcome (State B) Fault Refusal :=
  registerClass 2 (fun t => t.setP { t.p with d := false }) s

/-- SED (R279). -/
def execSed (s : State B) : Host.Outcome (State B) Fault Refusal :=
  registerClass 2 (fun t => t.setP { t.p with d := true }) s

/-- CLV (R280). -/
def execClv (s : State B) : Host.Outcome (State B) Fault Refusal :=
  registerClass 2 (fun t => t.setP { t.p with v := false }) s

/-- NOP $EA (R281). -/
def execNop (s : State B) : Host.Outcome (State B) Fault Refusal :=
  registerClass 2 (fun t => t) s

end Sys2Proof.Machine
end

