-- ==== Sys2Proof/Machine/System.lean ====
section
/-! DEFINITION. BRK and RTI (46_system.md). -/

namespace Sys2Proof.Machine

variable {B : Bus}

/-- BRK: return address pc0 + 2, B set before the status is pushed, I after (R290). The padding byte is not read. -/
def execBrk (s : State B) : Host.Outcome (State B) Fault Refusal :=
  let t := s.setP { s.p with b := true }
  .next ((t.enterHandler (s.pc + 2) (pack t.p) vecBrk).addCycles 7)

/-- RTI (R291). -/
def execRti (s : State B) : Host.Outcome (State B) Fault Refusal :=
  .next (s.returnFromHandler.addCycles 6)

end Sys2Proof.Machine
end

