-- ==== Sys2Proof/Machine/Unofficial.lean ====
section
/-! DEFINITION. The named unofficial instructions, the gated extras and the absent bytes (47_unofficial.md, R131, R331). -/

namespace Sys2Proof.Machine

variable {B : Bus}

/-- SLO: ASL memory, then ORA (R301). -/
def execSlo (m : Mode) (s : State B) : Host.Outcome (State B) Fault Refusal :=
  modifyClass m (shiftMicro fun v _ => aslF v) (fun r t => t.oraA r) s

/-- RLA: ROL memory, then AND (R302). -/
def execRla (m : Mode) (s : State B) : Host.Outcome (State B) Fault Refusal :=
  modifyClass m (shiftMicro rolF) (fun r t => t.andA r) s

/-- SRE: LSR memory, then EOR (R303). -/
def execSre (m : Mode) (s : State B) : Host.Outcome (State B) Fault Refusal :=
  modifyClass m (shiftMicro fun v _ => lsrF v) (fun r t => t.eorA r) s

/-- RRA: ROR memory, then ADC with the carry ROR left (R304). -/
def execRra (m : Mode) (s : State B) : Host.Outcome (State B) Fault Refusal :=
  modifyClass m (shiftMicro rorF) (fun r t => t.adcA r) s

/-- DCP: DEC memory, then CMP (R305). -/
def execDcp (m : Mode) (s : State B) : Host.Outcome (State B) Fault Refusal :=
  modifyClass m (plainMicro decF) (fun r t => t.compareWith t.a r) s

/-- ISC: INC memory, then SBC (R306). -/
def execIsc (m : Mode) (s : State B) : Host.Outcome (State B) Fault Refusal :=
  modifyClass m (plainMicro incF) (fun r t => t.sbcA r) s

/-- LAX: one read into A and X (R307). -/
def execLax (m : Mode) (s : State B) : Host.Outcome (State B) Fault Refusal :=
  readClass m (fun v t => (t.setX v).loadA v) s

/-- SAX: store A & X, no flag (R308). -/
def execSax (m : Mode) (s : State B) : Host.Outcome (State B) Fault Refusal :=
  writeClass m (fun t => t.a &&& t.x) s

/-- NOP implied (R310, R311). -/
def execNopImp (op : Byte) (s : State B) : Host.Outcome (State B) Fault Refusal :=
  gated op (registerClass 2 fun t => t) s

/-- NOP #imm (R310, R312). -/
def execNopImm (op v : Byte) (s : State B) : Host.Outcome (State B) Fault Refusal :=
  gated op (readClass (.imm v) fun _ t => t) s

/-- NOP zp: the read happens and is discarded (R310, R313). -/
def execNopZp (op b : Byte) (s : State B) : Host.Outcome (State B) Fault Refusal :=
  gated op (readClass (.zp b) fun _ t => t) s

/-- NOP zp,X (R310, R314). -/
def execNopZpx (op b : Byte) (s : State B) : Host.Outcome (State B) Fault Refusal :=
  gated op (readClass (.zpx b) fun _ t => t) s

/-- NOP abs, $0C (R310, R315). -/
def execNopAbs (w : Addr) (s : State B) : Host.Outcome (State B) Fault Refusal :=
  gated 0x0C (readClass (.abs w) fun _ t => t) s

/-- NOP abs,X (R310, R316). -/
def execNopAbsx (op : Byte) (w : Addr) (s : State B) : Host.Outcome (State B) Fault Refusal :=
  gated op (readClass (.absx w) fun _ t => t) s

/-- SBC #imm, $EB (R310, R317). -/
def execSbcEB (v : Byte) (s : State B) : Host.Outcome (State B) Fault Refusal :=
  gated 0xEB (readClass (.imm v) fun m t => t.sbcA m) s

/-- A byte absent from the catalog: run <- Faulted(op, pc0) and nothing else, PC included (R131, R331). -/
def execUnimplemented (op : Byte) (s : State B) : Host.Outcome (State B) Fault Refusal :=
  .next (s.raiseUnimplemented op)

end Sys2Proof.Machine
end

