-- ==== Sys2Proof/Syntax.lean ====
section
/-! DEFINITION. The instruction set: one constructor for each instruction rule of files 41 to 47 (an opcode-table row
is a constructor at one addressing mode) and one for the bytes that are absent from the catalog (R120–R131). -/

namespace Sys2Proof

inductive Instr where
  -- 41: loads, stores, transfers
  | lda (m : Mode) | ldx (m : Mode) | ldy (m : Mode)
  | sta (m : Mode) | stx (m : Mode) | sty (m : Mode)
  | tax | tay | txa | tya | tsx | txs
  -- 42: arithmetic, logic, compare, increment, decrement
  | adc (m : Mode) | sbc (m : Mode)
  | and (m : Mode) | ora (m : Mode) | eor (m : Mode) | bit (m : Mode)
  | cmp (m : Mode) | cpx (m : Mode) | cpy (m : Mode)
  | inc (m : Mode) | dec (m : Mode)
  | inx | iny | dex | dey
  -- 43: shifts and rotates, accumulator and memory forms
  | aslA | lsrA | rolA | rorA
  | asl (m : Mode) | lsr (m : Mode) | rol (m : Mode) | ror (m : Mode)
  -- 44: control transfer (d: the displacement byte; w: the operand word)
  | bpl (d : Byte) | bmi (d : Byte) | bvc (d : Byte) | bvs (d : Byte)
  | bcc (d : Byte) | bcs (d : Byte) | bne (d : Byte) | beq (d : Byte)
  | jmp (w : Addr) | jmpInd (w : Addr) | jsr (w : Addr) | rts
  -- 45: stack, flags, NOP $EA
  | pha | pla | php | plp
  | clc | sec | cli | sei | cld | sed | clv | nop
  -- 46: system
  | brk | rti
  -- 47: named unofficial
  | slo (m : Mode) | rla (m : Mode) | sre (m : Mode) | rra (m : Mode)
  | dcp (m : Mode) | isc (m : Mode) | lax (m : Mode) | sax (m : Mode)
  -- 47: gated (op: which of the rule's opcode bytes it is)
  | nopImp (op : Byte) | nopImm (op : Byte) (v : Byte) | nopZp (op : Byte) (b : Byte)
  | nopZpx (op : Byte) (b : Byte) | nopAbs (w : Addr) | nopAbsx (op : Byte) (w : Addr)
  | sbcEB (v : Byte)
  -- 30: a byte absent from the catalog (R131)
  | unimplemented (op : Byte)
  deriving DecidableEq, Repr

end Sys2Proof
end

