-- ==== Sys2Proof/WellFormed.lean ====
section
/-! DEFINITION. Which terms of Instr are encodings: each mnemonic's addressing modes (R121, R122) and the opcode bytes
of the gated and absent rows (R123, R131). -/

namespace Sys2Proof

/-- LDA, ADC, SBC, AND, ORA, EOR, CMP (R121). -/
def modesFull : List ModeTag := [.imm, .zp, .zpx, .abs, .absx, .absy, .izx, .izy]
/-- STA and the fused instructions: no immediate (R121, R122). -/
def modesNoImm : List ModeTag := [.zp, .zpx, .abs, .absx, .absy, .izx, .izy]
/-- ASL, LSR, ROL, ROR, INC, DEC in memory (R121). -/
def modesModify : List ModeTag := [.zp, .zpx, .abs, .absx]
def modesLdx : List ModeTag := [.imm, .zp, .zpy, .abs, .absy]
def modesLdy : List ModeTag := [.imm, .zp, .zpx, .abs, .absx]
def modesStx : List ModeTag := [.zp, .zpy, .abs]
def modesSty : List ModeTag := [.zp, .zpx, .abs]
def modesBit : List ModeTag := [.zp, .abs]
/-- CPX and CPY (R121). -/
def modesCompare : List ModeTag := [.imm, .zp, .abs]
def modesLax : List ModeTag := [.zp, .zpy, .abs, .absy, .izx, .izy]
def modesSax : List ModeTag := [.zp, .zpy, .abs, .izx]

/-- The opcode bytes of the gated NOP forms (R123). -/
def opsNopImp : List Byte := [0x1A, 0x3A, 0x5A, 0x7A, 0xDA, 0xFA]
def opsNopImm : List Byte := [0x80, 0x82, 0x89, 0xC2, 0xE2]
def opsNopZp : List Byte := [0x04, 0x44, 0x64]
def opsNopZpx : List Byte := [0x14, 0x34, 0x54, 0x74, 0xD4, 0xF4]
def opsNopAbsx : List Byte := [0x1C, 0x3C, 0x5C, 0x7C, 0xDC, 0xFC]

/-- The 25 bytes absent from the catalog whatever the parameters (R131). -/
def opsAbsent : List Byte :=
  [0x02, 0x12, 0x22, 0x32, 0x42, 0x52, 0x62, 0x72, 0x92, 0xB2, 0xD2, 0xF2] ++
  [0x0B, 0x2B, 0x4B, 0x6B, 0x8B, 0xAB, 0xCB, 0x93, 0x9F, 0x9C, 0x9E, 0x9B, 0xBB]

/-- The operand's mode is one of the listed ones. -/
def Mode.isOneOf (m : Mode) (tags : List ModeTag) : Bool := tags.contains m.tag

/-- The terms that are encodings of R121, R122, R123 or R131. -/
def Instr.wellFormed : Instr → Bool
  | .lda m | .adc m | .sbc m | .and m | .ora m | .eor m | .cmp m => m.isOneOf modesFull
  | .ldx m => m.isOneOf modesLdx
  | .ldy m => m.isOneOf modesLdy
  | .sta m | .slo m | .rla m | .sre m | .rra m | .dcp m | .isc m => m.isOneOf modesNoImm
  | .stx m => m.isOneOf modesStx
  | .sty m => m.isOneOf modesSty
  | .bit m => m.isOneOf modesBit
  | .cpx m | .cpy m => m.isOneOf modesCompare
  | .inc m | .dec m | .asl m | .lsr m | .rol m | .ror m => m.isOneOf modesModify
  | .lax m => m.isOneOf modesLax
  | .sax m => m.isOneOf modesSax
  | .nopImp op => opsNopImp.contains op
  | .nopImm op _ => opsNopImm.contains op
  | .nopZp op _ => opsNopZp.contains op
  | .nopZpx op _ => opsNopZpx.contains op
  | .nopAbsx op _ => opsNopAbsx.contains op
  | .unimplemented op => opsAbsent.contains op
  | .tax | .tay | .txa | .tya | .tsx | .txs | .inx | .iny | .dex | .dey
  | .aslA | .lsrA | .rolA | .rorA
  | .bpl _ | .bmi _ | .bvc _ | .bvs _ | .bcc _ | .bcs _ | .bne _ | .beq _
  | .jmp _ | .jmpInd _ | .jsr _ | .rts | .pha | .pla | .php | .plp
  | .clc | .sec | .cli | .sei | .cld | .sed | .clv | .nop | .brk | .rti
  | .nopAbs _ | .sbcEB _ => true

end Sys2Proof
end

