-- ==== Sys2Proof/Decode.lean ====
section
/-! DEFINITION. The decoder, the 256-entry opcode map of R120, and the encoder, written from the per-mnemonic lists of
R121, R122, R123 and R131. The map and the lists are two transcriptions of the same table. -/

namespace Sys2Proof

/-- One cell of the opcode map: absent (R131), or an instruction of one, two or three bytes (R101). -/
inductive Entry where
  | absent
  | one (i : Instr)
  | two (f : Byte → Instr)
  | three (f : Addr → Instr)

def mapRow0 : List Entry :=
  [.one .brk, .two fun b => .ora (.izx b), .absent, .two fun b => .slo (.izx b),
   .two (.nopZp 0x04), .two fun b => .ora (.zp b), .two fun b => .asl (.zp b), .two fun b => .slo (.zp b),
   .one .php, .two fun b => .ora (.imm b), .one .aslA, .absent,
   .three .nopAbs, .three fun w => .ora (.abs w), .three fun w => .asl (.abs w), .three fun w => .slo (.abs w)]
def mapRow1 : List Entry :=
  [.two .bpl, .two fun b => .ora (.izy b), .absent, .two fun b => .slo (.izy b),
   .two (.nopZpx 0x14), .two fun b => .ora (.zpx b), .two fun b => .asl (.zpx b), .two fun b => .slo (.zpx b),
   .one .clc, .three fun w => .ora (.absy w), .one (.nopImp 0x1A), .three fun w => .slo (.absy w),
   .three (.nopAbsx 0x1C), .three fun w => .ora (.absx w), .three fun w => .asl (.absx w), .three fun w => .slo (.absx w)]
def mapRow2 : List Entry :=
  [.three .jsr, .two fun b => .and (.izx b), .absent, .two fun b => .rla (.izx b),
   .two fun b => .bit (.zp b), .two fun b => .and (.zp b), .two fun b => .rol (.zp b), .two fun b => .rla (.zp b),
   .one .plp, .two fun b => .and (.imm b), .one .rolA, .absent,
   .three fun w => .bit (.abs w), .three fun w => .and (.abs w), .three fun w => .rol (.abs w), .three fun w => .rla (.abs w)]
def mapRow3 : List Entry :=
  [.two .bmi, .two fun b => .and (.izy b), .absent, .two fun b => .rla (.izy b),
   .two (.nopZpx 0x34), .two fun b => .and (.zpx b), .two fun b => .rol (.zpx b), .two fun b => .rla (.zpx b),
   .one .sec, .three fun w => .and (.absy w), .one (.nopImp 0x3A), .three fun w => .rla (.absy w),
   .three (.nopAbsx 0x3C), .three fun w => .and (.absx w), .three fun w => .rol (.absx w), .three fun w => .rla (.absx w)]
def mapRow4 : List Entry :=
  [.one .rti, .two fun b => .eor (.izx b), .absent, .two fun b => .sre (.izx b),
   .two (.nopZp 0x44), .two fun b => .eor (.zp b), .two fun b => .lsr (.zp b), .two fun b => .sre (.zp b),
   .one .pha, .two fun b => .eor (.imm b), .one .lsrA, .absent,
   .three .jmp, .three fun w => .eor (.abs w), .three fun w => .lsr (.abs w), .three fun w => .sre (.abs w)]
def mapRow5 : List Entry :=
  [.two .bvc, .two fun b => .eor (.izy b), .absent, .two fun b => .sre (.izy b),
   .two (.nopZpx 0x54), .two fun b => .eor (.zpx b), .two fun b => .lsr (.zpx b), .two fun b => .sre (.zpx b),
   .one .cli, .three fun w => .eor (.absy w), .one (.nopImp 0x5A), .three fun w => .sre (.absy w),
   .three (.nopAbsx 0x5C), .three fun w => .eor (.absx w), .three fun w => .lsr (.absx w), .three fun w => .sre (.absx w)]
def mapRow6 : List Entry :=
  [.one .rts, .two fun b => .adc (.izx b), .absent, .two fun b => .rra (.izx b),
   .two (.nopZp 0x64), .two fun b => .adc (.zp b), .two fun b => .ror (.zp b), .two fun b => .rra (.zp b),
   .one .pla, .two fun b => .adc (.imm b), .one .rorA, .absent,
   .three .jmpInd, .three fun w => .adc (.abs w), .three fun w => .ror (.abs w), .three fun w => .rra (.abs w)]
def mapRow7 : List Entry :=
  [.two .bvs, .two fun b => .adc (.izy b), .absent, .two fun b => .rra (.izy b),
   .two (.nopZpx 0x74), .two fun b => .adc (.zpx b), .two fun b => .ror (.zpx b), .two fun b => .rra (.zpx b),
   .one .sei, .three fun w => .adc (.absy w), .one (.nopImp 0x7A), .three fun w => .rra (.absy w),
   .three (.nopAbsx 0x7C), .three fun w => .adc (.absx w), .three fun w => .ror (.absx w), .three fun w => .rra (.absx w)]
def mapRow8 : List Entry :=
  [.two (.nopImm 0x80), .two fun b => .sta (.izx b), .two (.nopImm 0x82), .two fun b => .sax (.izx b),
   .two fun b => .sty (.zp b), .two fun b => .sta (.zp b), .two fun b => .stx (.zp b), .two fun b => .sax (.zp b),
   .one .dey, .two (.nopImm 0x89), .one .txa, .absent,
   .three fun w => .sty (.abs w), .three fun w => .sta (.abs w), .three fun w => .stx (.abs w), .three fun w => .sax (.abs w)]
def mapRow9 : List Entry :=
  [.two .bcc, .two fun b => .sta (.izy b), .absent, .absent,
   .two fun b => .sty (.zpx b), .two fun b => .sta (.zpx b), .two fun b => .stx (.zpy b), .two fun b => .sax (.zpy b),
   .one .tya, .three fun w => .sta (.absy w), .one .txs, .absent,
   .absent, .three fun w => .sta (.absx w), .absent, .absent]
def mapRowA : List Entry :=
  [.two fun b => .ldy (.imm b), .two fun b => .lda (.izx b), .two fun b => .ldx (.imm b), .two fun b => .lax (.izx b),
   .two fun b => .ldy (.zp b), .two fun b => .lda (.zp b), .two fun b => .ldx (.zp b), .two fun b => .lax (.zp b),
   .one .tay, .two fun b => .lda (.imm b), .one .tax, .absent,
   .three fun w => .ldy (.abs w), .three fun w => .lda (.abs w), .three fun w => .ldx (.abs w), .three fun w => .lax (.abs w)]
def mapRowB : List Entry :=
  [.two .bcs, .two fun b => .lda (.izy b), .absent, .two fun b => .lax (.izy b),
   .two fun b => .ldy (.zpx b), .two fun b => .lda (.zpx b), .two fun b => .ldx (.zpy b), .two fun b => .lax (.zpy b),
   .one .clv, .three fun w => .lda (.absy w), .one .tsx, .absent,
   .three fun w => .ldy (.absx w), .three fun w => .lda (.absx w), .three fun w => .ldx (.absy w), .three fun w => .lax (.absy w)]
def mapRowC : List Entry :=
  [.two fun b => .cpy (.imm b), .two fun b => .cmp (.izx b), .two (.nopImm 0xC2), .two fun b => .dcp (.izx b),
   .two fun b => .cpy (.zp b), .two fun b => .cmp (.zp b), .two fun b => .dec (.zp b), .two fun b => .dcp (.zp b),
   .one .iny, .two fun b => .cmp (.imm b), .one .dex, .absent,
   .three fun w => .cpy (.abs w), .three fun w => .cmp (.abs w), .three fun w => .dec (.abs w), .three fun w => .dcp (.abs w)]
def mapRowD : List Entry :=
  [.two .bne, .two fun b => .cmp (.izy b), .absent, .two fun b => .dcp (.izy b),
   .two (.nopZpx 0xD4), .two fun b => .cmp (.zpx b), .two fun b => .dec (.zpx b), .two fun b => .dcp (.zpx b),
   .one .cld, .three fun w => .cmp (.absy w), .one (.nopImp 0xDA), .three fun w => .dcp (.absy w),
   .three (.nopAbsx 0xDC), .three fun w => .cmp (.absx w), .three fun w => .dec (.absx w), .three fun w => .dcp (.absx w)]
def mapRowE : List Entry :=
  [.two fun b => .cpx (.imm b), .two fun b => .sbc (.izx b), .two (.nopImm 0xE2), .two fun b => .isc (.izx b),
   .two fun b => .cpx (.zp b), .two fun b => .sbc (.zp b), .two fun b => .inc (.zp b), .two fun b => .isc (.zp b),
   .one .inx, .two fun b => .sbc (.imm b), .one .nop, .two .sbcEB,
   .three fun w => .cpx (.abs w), .three fun w => .sbc (.abs w), .three fun w => .inc (.abs w), .three fun w => .isc (.abs w)]
def mapRowF : List Entry :=
  [.two .beq, .two fun b => .sbc (.izy b), .absent, .two fun b => .isc (.izy b),
   .two (.nopZpx 0xF4), .two fun b => .sbc (.zpx b), .two fun b => .inc (.zpx b), .two fun b => .isc (.zpx b),
   .one .sed, .three fun w => .sbc (.absy w), .one (.nopImp 0xFA), .three fun w => .isc (.absy w),
   .three (.nopAbsx 0xFC), .three fun w => .sbc (.absx w), .three fun w => .inc (.absx w), .three fun w => .isc (.absx w)]
/-- The 16×16 opcode map of R120, row hi, column lo. -/
def opcodeMap : List (List Entry) :=
  [mapRow0, mapRow1, mapRow2, mapRow3, mapRow4, mapRow5, mapRow6, mapRow7,
   mapRow8, mapRow9, mapRowA, mapRowB, mapRowC, mapRowD, mapRowE, mapRowF]

/-- The map's cell of an opcode byte (R100: the opcode byte alone selects it). -/
def opcodeEntry (op : Byte) : Entry :=
  (opcodeMap.getD (op.toNat / 16) []).getD (op.toNat % 16) .absent

/-- The length in bytes the opcode byte fixes (R102, R133); an absent byte is one byte, nothing after it is read. -/
def opcodeLen (op : Byte) : Nat :=
  match opcodeEntry op with
  | .absent => 1
  | .one _ => 1
  | .two _ => 2
  | .three _ => 3

/-- The instruction whose first byte is `op` and whose next two bytes are `b1` and `b2`, of which it uses as many as its
length says. Total: every byte is a catalog entry or an absent byte (R120, R132). -/
def decodeAt (op b1 b2 : Byte) : Instr :=
  match opcodeEntry op with
  | .absent => .unimplemented op
  | .one i => i
  | .two f => f b1
  | .three f => f (wordOf b2 b1)

/-- Why a finite list of bytes holds no instruction. -/
inductive DecodeError where
  /-- There is no byte. -/
  | empty
  /-- The bytes end before the instruction of this opcode byte does. -/
  | truncated (op : Byte)
  deriving DecidableEq, Repr

/-- Decoding a byte list: the instruction and the bytes after it. The only lists rejected are those that end too soon. -/
def decode : List Byte → Except DecodeError (Instr × List Byte)
  | [] => .error .empty
  | op :: rest =>
    if opcodeLen op ≤ rest.length + 1 then
      .ok (decodeAt op (rest.getD 0 0) (rest.getD 1 0), rest.drop (opcodeLen op - 1))
    else .error (.truncated op)

/-- Byte `k` of an instruction whose bits are numbered from the least significant bit of its first byte. -/
def tableByte (w k : Nat) : Byte := BitVec.ofNat 8 (w / 256 ^ k)

/-- The three bytes an opcode-table word of `nbits` bits stands for; every bit above `nbits` is 0. -/
def tableBytes (nbits w : Nat) : List Byte :=
  let v := w % 2 ^ nbits
  [tableByte v 0, tableByte v 1, tableByte v 2]

/-- The decoder's answer on a word numbered as spec/opcode_table.json numbers it. -/
def decodeTableWord (nbits w : Nat) : Option Instr :=
  match decode (tableBytes nbits w) with
  | .ok (i, _) => some i
  | .error _ => none

/-- The length in bytes of an instruction (R102). -/
def Instr.len : Instr → Nat
  | .lda m | .ldx m | .ldy m | .sta m | .stx m | .sty m
  | .adc m | .sbc m | .and m | .ora m | .eor m | .bit m | .cmp m | .cpx m | .cpy m
  | .inc m | .dec m | .asl m | .lsr m | .rol m | .ror m
  | .slo m | .rla m | .sre m | .rra m | .dcp m | .isc m | .lax m | .sax m => m.len
  | .tax | .tay | .txa | .tya | .tsx | .txs | .inx | .iny | .dex | .dey
  | .rts | .pha | .pla | .php | .plp | .clc | .sec | .cli | .sei | .cld | .sed | .clv | .nop
  | .brk | .rti | .nopImp _ => ModeTag.imp.len
  | .aslA | .lsrA | .rolA | .rorA => ModeTag.acc.len
  | .bpl _ | .bmi _ | .bvc _ | .bvs _ | .bcc _ | .bcs _ | .bne _ | .beq _ => ModeTag.rel.len
  | .jmp _ | .jsr _ => ModeTag.abs.len
  | .jmpInd _ => ModeTag.ind.len
  | .nopImm _ _ | .sbcEB _ => ModeTag.imm.len
  | .nopZp _ _ => ModeTag.zp.len
  | .nopZpx _ _ => ModeTag.zpx.len
  | .nopAbs _ => ModeTag.abs.len
  | .nopAbsx _ _ => ModeTag.absx.len
  | .unimplemented _ => 1

/-- Whether the instruction's opcode byte is absent from the catalog under these parameters: always for the bytes of
R131, and for the gated bytes of R123 when `P_EXTRA_UNOFFICIAL` is false (R151, R310). -/
def Instr.isAbsent (par : Params) : Instr → Bool
  | .unimplemented _ => true
  | .nopImp _ | .nopImm _ _ | .nopZp _ _ | .nopZpx _ _ | .nopAbs _ | .nopAbsx _ _ | .sbcEB _ => !par.extraUnofficial
  | .lda _ | .ldx _ | .ldy _ | .sta _ | .stx _ | .sty _ | .tax | .tay | .txa | .tya | .tsx | .txs
  | .adc _ | .sbc _ | .and _ | .ora _ | .eor _ | .bit _ | .cmp _ | .cpx _ | .cpy _
  | .inc _ | .dec _ | .inx | .iny | .dex | .dey | .aslA | .lsrA | .rolA | .rorA
  | .asl _ | .lsr _ | .rol _ | .ror _
  | .bpl _ | .bmi _ | .bvc _ | .bvs _ | .bcc _ | .bcs _ | .bne _ | .beq _
  | .jmp _ | .jmpInd _ | .jsr _ | .rts | .pha | .pla | .php | .plp
  | .clc | .sec | .cli | .sei | .cld | .sed | .clv | .nop | .brk | .rti
  | .slo _ | .rla _ | .sre _ | .rra _ | .dcp _ | .isc _ | .lax _ | .sax _ => false

/-- How many bytes the fetch reads: the whole instruction, or the opcode byte alone when it is absent (R331: no operand
byte is read). -/
def Instr.fetchLen (par : Params) (i : Instr) : Nat := if i.isAbsent par then 1 else i.len

/-- A mnemonic's opcode byte in each mode, in the order of Mode's constructors. A mode the mnemonic lacks has no byte;
WellFormed rules it out and the value given for it is unused. -/
def Mode.opcode (imm zp zpx zpy izx izy abs absx absy : Byte) : Mode → Byte
  | .imm _ => imm | .zp _ => zp | .zpx _ => zpx | .zpy _ => zpy
  | .izx _ => izx | .izy _ => izy | .abs _ => abs | .absx _ => absx | .absy _ => absy

/-- The opcode byte of a well-formed instruction (R121, R122, R123, R131). -/
def Instr.opcode : Instr → Byte
  --              imm  zp   zpx  zpy  izx  izy  abs  absx absy
  | .adc m => m.opcode 0x69 0x65 0x75 0x00 0x61 0x71 0x6D 0x7D 0x79
  | .and m => m.opcode 0x29 0x25 0x35 0x00 0x21 0x31 0x2D 0x3D 0x39
  | .asl m => m.opcode 0x00 0x06 0x16 0x00 0x00 0x00 0x0E 0x1E 0x00
  | .bit m => m.opcode 0x00 0x24 0x00 0x00 0x00 0x00 0x2C 0x00 0x00
  | .cmp m => m.opcode 0xC9 0xC5 0xD5 0x00 0xC1 0xD1 0xCD 0xDD 0xD9
  | .cpx m => m.opcode 0xE0 0xE4 0x00 0x00 0x00 0x00 0xEC 0x00 0x00
  | .cpy m => m.opcode 0xC0 0xC4 0x00 0x00 0x00 0x00 0xCC 0x00 0x00
  | .dec m => m.opcode 0x00 0xC6 0xD6 0x00 0x00 0x00 0xCE 0xDE 0x00
  | .eor m => m.opcode 0x49 0x45 0x55 0x00 0x41 0x51 0x4D 0x5D 0x59
  | .inc m => m.opcode 0x00 0xE6 0xF6 0x00 0x00 0x00 0xEE 0xFE 0x00
  | .lda m => m.opcode 0xA9 0xA5 0xB5 0x00 0xA1 0xB1 0xAD 0xBD 0xB9
  | .ldx m => m.opcode 0xA2 0xA6 0x00 0xB6 0x00 0x00 0xAE 0x00 0xBE
  | .ldy m => m.opcode 0xA0 0xA4 0xB4 0x00 0x00 0x00 0xAC 0xBC 0x00
  | .lsr m => m.opcode 0x00 0x46 0x56 0x00 0x00 0x00 0x4E 0x5E 0x00
  | .ora m => m.opcode 0x09 0x05 0x15 0x00 0x01 0x11 0x0D 0x1D 0x19
  | .rol m => m.opcode 0x00 0x26 0x36 0x00 0x00 0x00 0x2E 0x3E 0x00
  | .ror m => m.opcode 0x00 0x66 0x76 0x00 0x00 0x00 0x6E 0x7E 0x00
  | .sbc m => m.opcode 0xE9 0xE5 0xF5 0x00 0xE1 0xF1 0xED 0xFD 0xF9
  | .sta m => m.opcode 0x00 0x85 0x95 0x00 0x81 0x91 0x8D 0x9D 0x99
  | .stx m => m.opcode 0x00 0x86 0x00 0x96 0x00 0x00 0x8E 0x00 0x00
  | .sty m => m.opcode 0x00 0x84 0x94 0x00 0x00 0x00 0x8C 0x00 0x00
  | .slo m => m.opcode 0x00 0x07 0x17 0x00 0x03 0x13 0x0F 0x1F 0x1B
  | .rla m => m.opcode 0x00 0x27 0x37 0x00 0x23 0x33 0x2F 0x3F 0x3B
  | .sre m => m.opcode 0x00 0x47 0x57 0x00 0x43 0x53 0x4F 0x5F 0x5B
  | .rra m => m.opcode 0x00 0x67 0x77 0x00 0x63 0x73 0x6F 0x7F 0x7B
  | .dcp m => m.opcode 0x00 0xC7 0xD7 0x00 0xC3 0xD3 0xCF 0xDF 0xDB
  | .isc m => m.opcode 0x00 0xE7 0xF7 0x00 0xE3 0xF3 0xEF 0xFF 0xFB
  | .lax m => m.opcode 0x00 0xA7 0x00 0xB7 0xA3 0xB3 0xAF 0x00 0xBF
  | .sax m => m.opcode 0x00 0x87 0x00 0x97 0x83 0x00 0x8F 0x00 0x00
  | .aslA => 0x0A | .lsrA => 0x4A | .rolA => 0x2A | .rorA => 0x6A
  | .bcc _ => 0x90 | .bcs _ => 0xB0 | .beq _ => 0xF0 | .bmi _ => 0x30
  | .bne _ => 0xD0 | .bpl _ => 0x10 | .bvc _ => 0x50 | .bvs _ => 0x70
  | .brk => 0x00 | .clc => 0x18 | .cld => 0xD8 | .cli => 0x58 | .clv => 0xB8
  | .dex => 0xCA | .dey => 0x88 | .inx => 0xE8 | .iny => 0xC8
  | .jmp _ => 0x4C | .jmpInd _ => 0x6C | .jsr _ => 0x20 | .nop => 0xEA
  | .pha => 0x48 | .php => 0x08 | .pla => 0x68 | .plp => 0x28
  | .rti => 0x40 | .rts => 0x60 | .sec => 0x38 | .sed => 0xF8 | .sei => 0x78
  | .tax => 0xAA | .tay => 0xA8 | .tsx => 0xBA | .txa => 0x8A | .txs => 0x9A | .tya => 0x98
  | .nopImp op => op | .nopImm op _ => op | .nopZp op _ => op | .nopZpx op _ => op
  | .nopAbs _ => 0x0C | .nopAbsx op _ => op | .sbcEB _ => 0xEB
  | .unimplemented op => op

/-- The operand bytes, in instruction-stream order (R67, R101). -/
def Instr.operandBytes : Instr → List Byte
  | .lda m | .ldx m | .ldy m | .sta m | .stx m | .sty m
  | .adc m | .sbc m | .and m | .ora m | .eor m | .bit m | .cmp m | .cpx m | .cpy m
  | .inc m | .dec m | .asl m | .lsr m | .rol m | .ror m
  | .slo m | .rla m | .sre m | .rra m | .dcp m | .isc m | .lax m | .sax m => m.bytes
  | .bpl d | .bmi d | .bvc d | .bvs d | .bcc d | .bcs d | .bne d | .beq d => [d]
  | .jmp w | .jmpInd w | .jsr w | .nopAbs w | .nopAbsx _ w => [loByte w, hiByte w]
  | .nopImm _ v | .nopZp _ v | .nopZpx _ v | .sbcEB v => [v]
  | .tax | .tay | .txa | .tya | .tsx | .txs | .inx | .iny | .dex | .dey
  | .aslA | .lsrA | .rolA | .rorA | .rts | .pha | .pla | .php | .plp
  | .clc | .sec | .cli | .sei | .cld | .sed | .clv | .nop | .brk | .rti
  | .nopImp _ | .unimplemented _ => []

/-- The bytes of a well-formed instruction. -/
def encode (i : Instr) : List Byte := i.opcode :: i.operandBytes

end Sys2Proof
end

