-- ==== Sys2Proof/Machine/Fetch.lean ====
section
/-! DEFINITION. Fetching an instruction: its bytes are read from the bus when it executes, one transaction each
(R66, R78, R150). -/

namespace Sys2Proof.Machine

variable {B : Bus}

/-- How many bytes the fetch reads after the opcode byte: none when that byte is absent from the catalog (R331). -/
def operandCount (par : Params) (op : Byte) : Nat := (decodeAt op 0 0).fetchLen par - 1

/-- The fetch of the instruction at PC, in a new transition: the opcode byte, then as many operand bytes as that byte says, at
increasing addresses mod 2^16 (R36, R66, R100). An operand byte that is not read is 0 in the instruction, which does not use
it. -/
def State.fetch (s : State B) : Instr × State B :=
  let o := s.newTransition.memRead s.pc
  match operandCount s.par o.1 with
  | 0 => (decodeAt o.1 0 0, o.2)
  | 1 =>
    let b1 := o.2.memRead (s.pc + 1)
    (decodeAt o.1 b1.1 0, b1.2)
  | _ =>
    let b1 := o.2.memRead (s.pc + 1)
    let b2 := b1.2.memRead (s.pc + 2)
    (decodeAt o.1 b1.1 b2.1, b2.2)

/-- The instruction the fetch gives. -/
def State.fetchInstr (s : State B) : Instr := s.fetch.1

/-- The state after the fetch's bus transactions. -/
def State.fetched (s : State B) : State B := s.fetch.2

/-- The bytes at PC and after it set to an instruction's bytes, with no bus transaction. -/
def State.placeAtPc (s : State B) (bytes : List Byte) : State B := { s with mem := s.mem.load s.pc bytes }

end Sys2Proof.Machine
end

