-- ==== Sys2Proof/Machine/Step.lean ====
section
/-! DEFINITION. One step (R150): enabled when run = Running; fetch, then the instruction's meaning. -/

namespace Sys2Proof.Machine

/-- `Step` (R150). In a Faulted state no Step is enabled (R38, R376). -/
def step (s : State) : Host.Outcome State Fault Refusal :=
  match s.run with
  | .running => exec s.fetchInstr s.fetched
  | .faulted op pc0 => .fault (.unimplementedOpcode op pc0)

/-- `s` with an opcode-table word's instruction where `step` fetches its next one (log 7). -/
def State.withFetchWord (s : State) (nbits w : Nat) : State := s.placeAtPc (tableBytes nbits w)

end Sys2Proof.Machine
end

