-- ==== Sys2Proof/Machine/AnyBus.lean ====
section
/-! DEFINITION. The machine on any bus (R8, R60): exec and step over a bus given as an argument. On the reference bus they are
exec and step; every meaning is the one exec calls. -/

namespace Sys2Proof.Machine

variable {B : Bus}

/-- exec on any bus. -/
def execOn (i : Instr) (s : State B) : Host.Outcome (State B) Fault Refusal :=
  match i with
  | .lda m => execLda m s
  | .ldx m => execLdx m s
  | .ldy m => execLdy m s
  | .sta m => execSta m s
  | .stx m => execStx m s
  | .sty m => execSty m s
  | .tax => execTax s
  | .tay => execTay s
  | .txa => execTxa s
  | .tya => execTya s
  | .tsx => execTsx s
  | .txs => execTxs s
  | .adc m => execAdc m s
  | .sbc m => execSbc m s
  | .and m => execAnd m s
  | .ora m => execOra m s
  | .eor m => execEor m s
  | .bit m => execBit m s
  | .cmp m => execCmp m s
  | .cpx m => execCpx m s
  | .cpy m => execCpy m s
  | .inc m => execInc m s
  | .dec m => execDec m s
  | .inx => execInx s
  | .iny => execIny s
  | .dex => execDex s
  | .dey => execDey s
  | .aslA => execAslA s
  | .lsrA => execLsrA s
  | .rolA => execRolA s
  | .rorA => execRorA s
  | .asl m => execAsl m s
  | .lsr m => execLsr m s
  | .rol m => execRol m s
  | .ror m => execRor m s
  | .bpl d => execBpl d s
  | .bmi d => execBmi d s
  | .bvc d => execBvc d s
  | .bvs d => execBvs d s
  | .bcc d => execBcc d s
  | .bcs d => execBcs d s
  | .bne d => execBne d s
  | .beq d => execBeq d s
  | .jmp w => execJmp w s
  | .jmpInd w => execJmpInd w s
  | .jsr w => execJsr w s
  | .rts => execRts s
  | .pha => execPha s
  | .pla => execPla s
  | .php => execPhp s
  | .plp => execPlp s
  | .clc => execClc s
  | .sec => execSec s
  | .cli => execCli s
  | .sei => execSei s
  | .cld => execCld s
  | .sed => execSed s
  | .clv => execClv s
  | .nop => execNop s
  | .brk => execBrk s
  | .rti => execRti s
  | .slo m => execSlo m s
  | .rla m => execRla m s
  | .sre m => execSre m s
  | .rra m => execRra m s
  | .dcp m => execDcp m s
  | .isc m => execIsc m s
  | .lax m => execLax m s
  | .sax m => execSax m s
  | .nopImp op => execNopImp op s
  | .nopImm op v => execNopImm op v s
  | .nopZp op b => execNopZp op b s
  | .nopZpx op b => execNopZpx op b s
  | .nopAbs w => execNopAbs w s
  | .nopAbsx op w => execNopAbsx op w s
  | .sbcEB v => execSbcEB v s
  | .unimplemented op => execUnimplemented op s

/-- `Step` (R150) on any bus. -/
def stepOn (s : State B) : Host.Outcome (State B) Fault Refusal :=
  match s.run with
  | .running => execOn s.fetchInstr s.fetched
  | .faulted op pc0 => .fault (.unimplementedOpcode op pc0)

end Sys2Proof.Machine
end

