-- ==== Sys2Proof/Machine/HostCalls.lean ====
section
/-! DEFINITION. The host interface (R345), on any bus: power-on and launch, `reset()`, `nmi()`, the bus update where the bus
has one, and schedules of calls. -/

namespace Sys2Proof.Machine

variable {B : Bus}

/-- The state before any host call (R371), on the bus `B` in its initial state `b`, which holds the loader's image (R375). It
is the launch: every `HostCall` comes after it. -/
def State.powerOnWith (B : Bus) (par : Params) (r : PowerOn) (b : BusState B.Dev) : State B :=
  { a := r.a, x := r.x, y := r.y, sp := r.sp, pc := r.pc, p := unpack r.p, cyc := 0, run := .running,
    mem := b.cells, dev := b.dev, bus := [], par := par }

/-- The state before any host call on the reference bus, whose storage holds `mem`. -/
def State.powerOn (par : Params) (r : PowerOn) (mem : Memory) : State :=
  State.powerOnWith Bus.reference par r { cells := mem, dev := () }

/-- The launch image: the program's bytes at `$10000 − len` on, every other cell 0 (R375). -/
def launchImage (prog : List Byte) : Memory := Memory.load [] (0 - BitVec.ofNat 16 prog.length) prog

/-- A host call's transition when run = Running; in a Faulted state none is enabled (R341, R372, R376). -/
def whenRunning (s : State B) (f : State B → State B) : Host.Outcome (State B) Fault Refusal :=
  match s.run with
  | .running => .next (f s.newTransition)
  | .faulted op pc0 => .fault (.unimplementedOpcode op pc0)

/-- `reset()`: PC from the reset vector, nothing else (R370); 0 cycles (R387). -/
def resetCall (s : State B) : Host.Outcome (State B) Fault Refusal := whenRunning s (fun t => t.loadVector vecReset)

/-- `nmi()` (R342); 7 cycles (R387). It is taken whatever I is (R341). -/
def nmiCall (s : State B) : Host.Outcome (State B) Fault Refusal :=
  whenRunning s (fun t => (t.enterHandler t.pc (pushedByNmi t.p) vecNmi).addCycles 7)

/-- The host's interactions after the launch (R345), on a bus of device state `Dev` that has host updates or not. Terminating
is making no further call. -/
inductive HostCall (Dev : Type) (hostUpdates : Bool) where
  | reset
  | nmi
  | step
  /-- A bus or device update between calls, in any state: the bus state is replaced (R80, R345). On a bus without host
  updates, the reference bus among them, there is no such call (R80). -/
  | busUpdate (enabled : hostUpdates = true) (b : BusState Dev)
  deriving DecidableEq, Repr

/-- A bus or device update: the bus state is replaced and the CORE does nothing, so it performs no transaction (R345). -/
def State.busUpdate (s : State B) (b : BusState B.Dev) : State B := s.newTransition.setBusState b

/-- What one host call does. -/
def hostCall (s : State B) : HostCall B.Dev B.hostUpdates → Host.Outcome (State B) Fault Refusal
  | .reset => resetCall s
  | .nmi => nmiCall s
  | .step => stepOn s
  | .busUpdate _ b => .next (s.busUpdate b)

/-- A schedule of host calls, in order, stopping where one is not enabled (R345, R346). -/
def runSchedule (s : State B) : List (HostCall B.Dev B.hostUpdates) → Host.Outcome (State B) Fault Refusal
  | [] => .next s
  | c :: cs =>
    match hostCall s c with
    | .next t => runSchedule t cs
    | .fault r => .fault r
    | .refused r => .refused r

end Sys2Proof.Machine
end

