-- ==== Sys2Proof/Safety.lean ====
section
/-! DEFINITION. What counts as a safe state and as the normal end of a run (R38, R389). -/

namespace Sys2Proof

open Sys2Proof.Machine

/-- The CORE has not taken the fatal fault (R38). -/
def running (s : State) : Bool := decide (s.run = .running)

/-- The normal end of a run at the end address: run = Running, PC = E, and `JMP E` stands there (R389). -/
def normalEnd (e : Addr) (s : State) : Bool :=
  running s && decide (s.pc = e) && decide (s.peek e = 0x4C) && decide (s.peek (e + 1) = loByte e) &&
  decide (s.peek (e + 2) = hiByte e)

/-- What holds of every reachable state: the storage is in its canonical form. -/
def memoryOk (s : State) : Bool := s.mem.wf

/-- Bus transactions performed in order on a bus from the state `b`: the bus state they leave, or none where a read would
answer another byte than the one listed (R60, R65). -/
def Machine.Bus.replay (B : Bus) (b : BusState B.Dev) : List Access → Option (BusState B.Dev)
  | [] => some b
  | .read a v :: rest => if (B.port.read b a).1 = v then Machine.Bus.replay B (B.port.read b a).2 rest else none
  | .write a v :: rest => Machine.Bus.replay B (B.port.write b a v) rest

end Sys2Proof
end

