-- ==== Sys2Proof/Certificates/Slice0/Obligations.lean ====
section
/-! DEFINITION. The statements for the provers, with the vocabulary they are written in. An instruction's result is stated
as one equation: exec answers the next state whose every field is given, so it is its result, its frame and its completion
at once. A meaning is called at pc0, after the step has read the instruction's bytes. -/

namespace Sys2Proof.Claims

open Sys2Proof.Machine

/-- `SetNZ(v)` on the flags (R153). -/
def nz (p : Flags) (v : Byte) : Flags := { p with z := v == 0, n := v.getLsbD 7 }

/-- PC past an instruction of `len` bytes, `cost` cycles counted, nothing else changed. -/
def done (s : State) (len cost : Nat) : State :=
  { s with pc := s.pc + BitVec.ofNat 16 len, cyc := s.cyc + BitVec.ofNat 64 cost }

/-- The byte a Read-class instruction gets (R162). -/
def operand (s : State) (m : Mode) : Byte := (s.readOperand m).1

/-- The effective address of an operand (R104–R116). -/
def ea (s : State) (m : Mode) : Addr := (s.resolve m).1

/-- A Read-class instruction done, but for its own registers and flags: one read of EA after the pointer reads. -/
def afterRead (s : State) (m : Mode) : State :=
  { done s m.len (readCost m + s.readPenalty m) with bus := (s.readOperand m).2.bus }

/-- A Write-class instruction done: one write of EA and no read of it. -/
def afterWrite (s : State) (m : Mode) (v : Byte) : State :=
  { done s m.len (writeCost m) with
    mem := s.mem.write (ea s m).toNat v, bus := (s.resolve m).2.bus ++ [.write (ea s m) v] }

/-- A Read-modify-write instruction done, but for its own registers and flags: one read of EA, one write of `r` there. -/
def afterModify (s : State) (m : Mode) (r : Byte) : State :=
  { done s m.len (modifyCost m) with
    mem := s.mem.write (ea s m).toNat r
    bus := (s.resolve m).2.bus ++ [.read (ea s m) (s.peek (ea s m)), .write (ea s m) r] }

/-- A step whose only bus transactions before exec's are the reads of `n` bytes from PC on. -/
def fetchReads (s : State) (n : Nat) : List Access :=
  (List.range n).map fun k => .read (s.pc + BitVec.ofNat 16 k) (s.peek (s.pc + BitVec.ofNat 16 k))

/-! ### Encodings -/

/-- The operand that operand bytes `b1`, `b2` make in a mode with a memory operand. -/
def operandOf (tag : ModeTag) (b1 b2 : Byte) : Option Mode :=
  match tag with
  | .imm => some (.imm b1) | .zp => some (.zp b1) | .zpx => some (.zpx b1) | .zpy => some (.zpy b1)
  | .izx => some (.izx b1) | .izy => some (.izy b1)
  | .abs => some (.abs (wordOf b2 b1)) | .absx => some (.absx (wordOf b2 b1)) | .absy => some (.absy (wordOf b2 b1))
  | .imp | .acc | .rel | .ind => none

/-- The instruction completes and adds `n` base cycles, with the gated bytes enabled and the penalties off. -/
def Costs (i : Instr) (n : Nat) : Prop :=
  ∀ s : State, s.par.extraUnofficial = true → s.par.cyclePenalties = false →
    ∃ t, exec i s = .next t ∧ t.cyc = s.cyc + BitVec.ofNat 64 n

/-- Each listed (mode, opcode byte, base cycles) is an encoding of the mnemonic in that mode. -/
def EncodedAs (i : Mode → Instr) (rows : List (ModeTag × Byte × Nat)) : Prop :=
  ∀ tag op n, (tag, op, n) ∈ rows → ∀ b1 b2 m, operandOf tag b1 b2 = some m →
    decodeAt op b1 b2 = i m ∧ (i m).wellFormed = true ∧ Costs (i m) n

/-- A one-byte instruction's opcode byte and base cycles. -/
def EncodedOne (i : Instr) (op : Byte) (n : Nat) : Prop :=
  (∀ b1 b2, decodeAt op b1 b2 = i) ∧ i.len = 1 ∧ Costs i n

/-- A two-byte instruction with a plain operand byte. -/
def EncodedTwo (i : Byte → Instr) (op : Byte) (n : Nat) : Prop :=
  ∀ b1, (∀ b2, decodeAt op b1 b2 = i b1) ∧ (i b1).len = 2 ∧ Costs (i b1) n

/-- A three-byte instruction with a plain operand word, its low byte first. -/
def EncodedThree (i : Addr → Instr) (op : Byte) (n : Nat) : Prop :=
  ∀ b1 b2, decodeAt op b1 b2 = i (wordOf b2 b1) ∧ (i (wordOf b2 b1)).len = 3 ∧ Costs (i (wordOf b2 b1)) n

/-- The rows of LDA, ADC, SBC, AND, ORA, EOR and CMP, which differ in the opcode bytes only. -/
def fullRows (imm zp zpx abs absx absy izx izy : Byte) : List (ModeTag × Byte × Nat) :=
  [(.imm, imm, 2), (.zp, zp, 3), (.zpx, zpx, 4), (.abs, abs, 4), (.absx, absx, 4), (.absy, absy, 4),
   (.izx, izx, 6), (.izy, izy, 5)]

/-- The rows of a memory shift, INC or DEC. -/
def modifyRows (zp zpx abs absx : Byte) : List (ModeTag × Byte × Nat) :=
  [(.zp, zp, 5), (.zpx, zpx, 6), (.abs, abs, 6), (.absx, absx, 7)]

/-- The rows of a fused instruction. -/
def fusedRows (zp zpx abs absx absy izx izy : Byte) : List (ModeTag × Byte × Nat) :=
  [(.zp, zp, 5), (.zpx, zpx, 6), (.abs, abs, 6), (.absx, absx, 7), (.absy, absy, 7), (.izx, izx, 8), (.izy, izy, 8)]

/-! ### Whole-machine vocabulary -/

/-- The four kinds of opcode byte (R120). -/
inductive Kind where
  | official | named | gated | absent
  deriving DecidableEq, Repr

/-- The kind of an instruction (R121, R122, R123, R131). -/
def kindOf : Instr → Kind
  | .slo _ | .rla _ | .sre _ | .rra _ | .dcp _ | .isc _ | .lax _ | .sax _ => .named
  | .nopImp _ | .nopImm _ _ | .nopZp _ _ | .nopZpx _ _ | .nopAbs _ | .nopAbsx _ _ | .sbcEB _ => .gated
  | .unimplemented _ => .absent
  | _ => .official

/-- The 28 gated bytes (R123). -/
def gatedBytes : List Byte :=
  [0x1A, 0x3A, 0x5A, 0x7A, 0xDA, 0xFA, 0x80, 0x82, 0x89, 0xC2, 0xE2, 0x04, 0x44, 0x64] ++
  [0x14, 0x34, 0x54, 0x74, 0xD4, 0xF4, 0x0C, 0x1C, 0x3C, 0x5C, 0x7C, 0xDC, 0xFC, 0xEB]

/-- How many of the 256 opcode bytes are of a kind. -/
def countOf (k : Kind) : Nat :=
  ((List.range 256).filter fun n => decide (kindOf (decodeAt (BitVec.ofNat 8 n) 0 0) = k)).length

/-- The writers of A (R31). -/
def writesA : Instr → Bool
  | .lda _ | .pla | .txa | .tya | .adc _ | .sbc _ | .and _ | .ora _ | .eor _ | .aslA | .lsrA | .rolA | .rorA
  | .slo _ | .rla _ | .sre _ | .rra _ | .isc _ | .lax _ | .sbcEB _ => true
  | _ => false

/-- The writers of X (R32). -/
def writesX : Instr → Bool
  | .ldx _ | .tax | .tsx | .inx | .dex | .lax _ => true
  | _ => false

/-- The writers of Y (R33). -/
def writesY : Instr → Bool
  | .ldy _ | .tay | .iny | .dey => true
  | _ => false

/-- The writers of SP (R35). -/
def writesSp : Instr → Bool
  | .txs | .pha | .php | .pla | .plp | .jsr _ | .rts | .brk | .rti => true
  | _ => false

/-- The writers of C (R44). -/
def writesC : Instr → Bool
  | .adc _ | .sbc _ | .cmp _ | .cpx _ | .cpy _ | .aslA | .lsrA | .rolA | .rorA | .asl _ | .lsr _ | .rol _ | .ror _
  | .clc | .sec | .plp | .rti | .slo _ | .rla _ | .sre _ | .rra _ | .dcp _ | .isc _ | .sbcEB _ => true
  | _ => false

/-- The writers of Z and N (R45, R51). -/
def writesNZ : Instr → Bool
  | .lda _ | .ldx _ | .ldy _ | .tax | .tay | .txa | .tya | .tsx | .pla | .adc _ | .sbc _ | .and _ | .ora _ | .eor _
  | .inc _ | .dec _ | .inx | .iny | .dex | .dey | .aslA | .lsrA | .rolA | .rorA | .asl _ | .lsr _ | .rol _ | .ror _
  | .slo _ | .rla _ | .sre _ | .rra _ | .isc _ | .lax _ | .sbcEB _
  | .cmp _ | .cpx _ | .cpy _ | .dcp _ | .bit _ | .plp | .rti => true
  | _ => false

/-- The writers of V (R50). -/
def writesV : Instr → Bool
  | .adc _ | .sbc _ | .bit _ | .clv | .plp | .rti | .rra _ | .isc _ | .sbcEB _ => true
  | _ => false

/-- The writers of I among the instructions (R46). -/
def writesI : Instr → Bool
  | .sei | .cli | .brk | .plp | .rti => true
  | _ => false

/-- The writers of D (R47). -/
def writesD : Instr → Bool
  | .sed | .cld | .plp | .rti => true
  | _ => false

/-- The writers of the stored B (R48). -/
def writesB : Instr → Bool
  | .brk | .plp | .rti => true
  | _ => false

/-- The addresses an instruction stores to, from the state it starts in. -/
def stored (s : State) : Instr → List Addr
  | .sta m | .stx m | .sty m | .sax m | .inc m | .dec m | .asl m | .lsr m | .rol m | .ror m
  | .slo m | .rla m | .sre m | .rra m | .dcp m | .isc m => [(s.resolve m).1]
  | .pha | .php => [stackAddr s.sp]
  | .jsr _ => [stackAddr s.sp, stackAddr (s.sp - 1)]
  | .brk => [stackAddr s.sp, stackAddr (s.sp - 1), stackAddr (s.sp - 1 - 1)]
  | _ => []

/-- Two outcomes agree once `forget` is applied to their states. -/
def Agree (forget : State → State) : Host.Outcome State Fault Refusal → Host.Outcome State Fault Refusal → Prop
  | .next t, .next t' => forget t = forget t'
  | .fault r, .fault r' => r = r'
  | .refused r, .refused r' => r = r'
  | _, _ => False

def forgetB (s : State) : State := { s with p := { s.p with b := false } }
def forgetDI (s : State) : State := { s with p := { s.p with d := false, i := false } }
def forgetCyc (s : State) : State := { s with cyc := 0 }

/-- `n` executions of one instruction, stopping at a fault or a refusal. -/
def times (i : Instr) : Nat → State → Host.Outcome State Fault Refusal
  | 0, s => .next s
  | n + 1, s =>
    match exec i s with
    | .next t => times i n t
    | .fault r => .fault r
    | .refused r => .refused r

/-- A conditional branch: its constructor, opcode byte and condition (R251–R258). -/
def branches : List ((Byte → Instr) × Byte × (Flags → Bool)) :=
  [(.bpl, 0x10, fun p => !p.n), (.bmi, 0x30, fun p => p.n), (.bvc, 0x50, fun p => !p.v), (.bvs, 0x70, fun p => p.v),
   (.bcc, 0x90, fun p => !p.c), (.bcs, 0xB0, fun p => p.c), (.bne, 0xD0, fun p => !p.z), (.beq, 0xF0, fun p => p.z)]

/-- A flag instruction: its constructor, opcode byte and what it makes of P (R274–R280), and NOP (R281). -/
def flagInstrs : List (Instr × Byte × (Flags → Flags)) :=
  [(.clc, 0x18, fun p => { p with c := false }), (.sec, 0x38, fun p => { p with c := true }),
   (.cli, 0x58, fun p => { p with i := false }), (.sei, 0x78, fun p => { p with i := true }),
   (.cld, 0xD8, fun p => { p with d := false }), (.sed, 0xF8, fun p => { p with d := true }),
   (.clv, 0xB8, fun p => { p with v := false }), (.nop, 0xEA, fun p => p)]

/-- The Read-class instructions that name a mode (R162). -/
def readers : List (Mode → Instr) :=
  [.lda, .ldx, .ldy, .adc, .sbc, .and, .ora, .eor, .cmp, .cpx, .cpy, .bit, .lax]

/-- The Write-class instructions (R162). -/
def writers : List (Mode → Instr) := [.sta, .stx, .sty, .sax]

/-- The Read-modify-write instructions (R162). -/
def modifiers : List (Mode → Instr) :=
  [.asl, .lsr, .rol, .ror, .inc, .dec, .slo, .rla, .sre, .rra, .dcp, .isc]

/-- An absolute,X, absolute,Y or (zp),Y access whose address has another high byte than its base (R116). -/
def crosses (s : State) : Mode → Bool
  | .absx w => hiByte (w + zext16 s.x) != hiByte w
  | .absy w => hiByte (w + zext16 s.y) != hiByte w
  | .izy b =>
    let base := wordOf (s.peek (zext16 (b + 1))) (s.peek (zext16 b))
    hiByte (base + zext16 s.y) != hiByte base
  | _ => false

/-- The six flags PLP and RTI take from a pulled byte, B cleared (R273). -/
def pulledFlags (v : Byte) : Flags :=
  { n := v.getLsbD 7, v := v.getLsbD 6, b := false, d := v.getLsbD 3, i := v.getLsbD 2, z := v.getLsbD 1, c := v.getLsbD 0 }

end Sys2Proof.Claims

open Sys2Proof Sys2Proof.Machine Sys2Proof.Claims

/-! ### The step, decoding, encoding -/

/-- A step of a running CORE is exec of the instruction its bytes at PC decode to, with the fetch's reads as the only bus
transactions so far (R150, R66). -/
def Obligations.StepRunsDecodedInstruction : Prop :=
  ∀ s : State, s.run = .running →
    let i := decodeAt (s.peek s.pc) (s.peek (s.pc + 1)) (s.peek (s.pc + 2))
    step s = exec i { s with bus := fetchReads s (if i.isAbsent s.par then 1 else i.len) } ∧
    ∃ rest, decode [s.peek s.pc, s.peek (s.pc + 1), s.peek (s.pc + 2)] = .ok (i, rest)

/-- No step, NMI or reset is enabled in a Faulted state (R38, R331, R376). Where the spec has no transition the model answers
the fault unimplementedOpcode op pc0, which is the model's rendering (log 1, DEDUCED). -/
def Obligations.FaultedCoreAcceptsNothing : Prop :=
  ∀ (s : State) (op : Byte) (pc0 : Addr), s.run = .faulted op pc0 →
    step s = .fault (.unimplementedOpcode op pc0) ∧ nmiCall s = .fault (.unimplementedOpcode op pc0) ∧
    resetCall s = .fault (.unimplementedOpcode op pc0)

/-- Words written out from R134's examples and from R122, R123 and R131. -/
def Obligations.SampleWordsDecode : Prop :=
  decode [0xE8] = .ok (.inx, []) ∧ decode [0x0A] = .ok (.aslA, []) ∧ decode [0xA9, 0x05] = .ok (.lda (.imm 0x05), []) ∧
  decode [0x85, 0x10] = .ok (.sta (.zp 0x10), []) ∧ decode [0xB5, 0x10] = .ok (.lda (.zpx 0x10), []) ∧
  decode [0xB6, 0x10] = .ok (.ldx (.zpy 0x10), []) ∧ decode [0x4C, 0x00, 0x80] = .ok (.jmp 0x8000, []) ∧
  decode [0xBD, 0x34, 0x12] = .ok (.lda (.absx 0x1234), []) ∧ decode [0xB9, 0x34, 0x12] = .ok (.lda (.absy 0x1234), []) ∧
  decode [0x6C, 0xFF, 0x10] = .ok (.jmpInd 0x10FF, []) ∧ decode [0xA1, 0x20] = .ok (.lda (.izx 0x20), []) ∧
  decode [0xB1, 0x20] = .ok (.lda (.izy 0x20), []) ∧ decode [0xD0, 0xFE] = .ok (.bne 0xFE, []) ∧
  decode [0x07, 0x10] = .ok (.slo (.zp 0x10), []) ∧ decode [0xEB, 0x01] = .ok (.sbcEB 0x01, []) ∧
  decode [0x02, 0x77] = .ok (.unimplemented 0x02, [0x77]) ∧ decode [0xAD, 0x34] = .error (.truncated 0xAD)

/-- Decoding an encoded well-formed instruction, whatever follows it, gives the instruction back. -/
def Obligations.DecodeInvertsEncode : Prop :=
  ∀ (i : Instr) (rest : List Byte), i.wellFormed = true → decode (encode i ++ rest) = .ok (i, rest)

/-- Every three bytes decode to a well-formed instruction whose encoding is as many of them as its length says. -/
def Obligations.EncodeInvertsDecode : Prop :=
  ∀ op b1 b2 : Byte, (decodeAt op b1 b2).wellFormed = true ∧
    encode (decodeAt op b1 b2) = [op, b1, b2].take (opcodeLen op)

/-- 151 official, 52 named unofficial, 28 gated and 25 absent bytes (R120). -/
def Obligations.OpcodeBytesByKind : Prop :=
  countOf .official = 151 ∧ countOf .named = 52 ∧ countOf .gated = 28 ∧ countOf .absent = 25

/-- The opcode byte alone fixes an instruction's length, which is one to three bytes (R133). -/
def Obligations.OpcodeByteFixesLength : Prop :=
  ∀ op b1 b2 : Byte, (decodeAt op b1 b2).len = opcodeLen op ∧ (decodeAt op b1 b2).opcode = op ∧
    1 ≤ opcodeLen op ∧ opcodeLen op ≤ 3

/-! ### Addressing modes -/

/-- The effective address of each mode and the pointer reads it makes (R105–R109, R114, R115), and the operand of a Read-class
instruction: for the immediate mode the operand byte itself, with no read but the fetch's, and for each mode in memory the byte
at the effective address, by one read of it after the pointer reads (R162). -/
def Obligations.EffectiveAddresses : Prop :=
  ∀ (s : State) (b : Byte) (w : Addr),
    s.resolve (.imm b) = (s.pc + 1, s) ∧
    s.resolve (.zp b) = (zext16 b, s) ∧
    s.resolve (.zpx b) = (zext16 (b + s.x), s) ∧
    s.resolve (.zpy b) = (zext16 (b + s.y), s) ∧
    s.resolve (.abs w) = (w, s) ∧
    s.resolve (.absx w) = (w + zext16 s.x, s) ∧
    s.resolve (.absy w) = (w + zext16 s.y, s) ∧
    (let lo := s.peek (zext16 (b + s.x))
     let hi := s.peek (zext16 (b + s.x + 1))
     s.resolve (.izx b) = (wordOf hi lo,
       { s with bus := s.bus ++ [.read (zext16 (b + s.x)) lo, .read (zext16 (b + s.x + 1)) hi] })) ∧
    (let lo := s.peek (zext16 b)
     let hi := s.peek (zext16 (b + 1))
     s.resolve (.izy b) = (wordOf hi lo + zext16 s.y,
       { s with bus := s.bus ++ [.read (zext16 b) lo, .read (zext16 (b + 1)) hi] })) ∧
    s.readOperand (.imm b) = (b, s) ∧
    (∀ m ∈ [Mode.zp b, .zpx b, .zpy b, .izx b, .izy b, .abs w, .absx w, .absy w],
      s.readOperand m = (s.peek (s.resolve m).1,
        { s with bus := (s.resolve m).2.bus ++ [.read (s.resolve m).1 (s.peek (s.resolve m).1)] }))

/-- Every zero-page mode's address and every stack slot's address lies in its page (R106, R107, R35). -/
def Obligations.ZeroPageAndStackStayInPage : Prop :=
  ∀ (s : State) (b : Byte),
    ((s.resolve (.zp b)).1.toNat < 256 ∧ (s.resolve (.zpx b)).1.toNat < 256 ∧ (s.resolve (.zpy b)).1.toNat < 256) ∧
    (stackAddr b).toNat = 256 + b.toNat

/-- A branch target is the sign-extended displacement past the branch, so it lies in pc0 − 126 to pc0 + 129 mod 2^16, and
those two bounds are reached at $80 and $7F (R110, R250). -/
def Obligations.BranchTargetRange : Prop :=
  ∀ (pc0 : Addr) (d : Byte),
    branchTarget pc0 d = BitVec.ofInt 16 (pc0.toInt + 2 + d.toInt) ∧
    (∃ k : Nat, k ≤ 255 ∧ branchTarget pc0 d = pc0 - 126 + BitVec.ofNat 16 k) ∧
    branchTarget pc0 0x80 = pc0 - 126 ∧ branchTarget pc0 0x7F = pc0 + 129 ∧ branchTarget pc0 0xFE = pc0 ∧
    branchTarget pc0 0x00 = pc0 + 2

/-! ### 41: loads, stores, transfers -/

/-- LDA, LDX, LDY: the register and N, Z from the byte read; nothing else (R180–R182). -/
def Obligations.LoadResults : Prop :=
  (∀ (m : Mode) (s : State),
    exec (.lda m) s = .next { afterRead s m with a := operand s m, p := nz s.p (operand s m) } ∧
    exec (.ldx m) s = .next { afterRead s m with x := operand s m, p := nz s.p (operand s m) } ∧
    exec (.ldy m) s = .next { afterRead s m with y := operand s m, p := nz s.p (operand s m) }) ∧
  EncodedAs .lda (fullRows 0xA9 0xA5 0xB5 0xAD 0xBD 0xB9 0xA1 0xB1) ∧
  EncodedAs .ldx [(.imm, 0xA2, 2), (.zp, 0xA6, 3), (.zpy, 0xB6, 4), (.abs, 0xAE, 4), (.absy, 0xBE, 4)] ∧
  EncodedAs .ldy [(.imm, 0xA0, 2), (.zp, 0xA4, 3), (.zpx, 0xB4, 4), (.abs, 0xAC, 4), (.absx, 0xBC, 4)]

/-- STA, STX, STY: one write of the register at EA; no flag, no register (R183–R185). -/
def Obligations.StoreResults : Prop :=
  (∀ (m : Mode) (s : State),
    exec (.sta m) s = .next (afterWrite s m s.a) ∧ exec (.stx m) s = .next (afterWrite s m s.x) ∧
    exec (.sty m) s = .next (afterWrite s m s.y)) ∧
  EncodedAs .sta [(.zp, 0x85, 3), (.zpx, 0x95, 4), (.abs, 0x8D, 4), (.absx, 0x9D, 5), (.absy, 0x99, 5),
    (.izx, 0x81, 6), (.izy, 0x91, 6)] ∧
  EncodedAs .stx [(.zp, 0x86, 3), (.zpy, 0x96, 4), (.abs, 0x8E, 4)] ∧
  EncodedAs .sty [(.zp, 0x84, 3), (.zpx, 0x94, 4), (.abs, 0x8C, 4)]

/-- The six transfers; TXS alone sets no flag (R186–R191). -/
def Obligations.TransferResults : Prop :=
  (∀ s : State,
    exec .tax s = .next { done s 1 2 with x := s.a, p := nz s.p s.a } ∧
    exec .tay s = .next { done s 1 2 with y := s.a, p := nz s.p s.a } ∧
    exec .txa s = .next { done s 1 2 with a := s.x, p := nz s.p s.x } ∧
    exec .tya s = .next { done s 1 2 with a := s.y, p := nz s.p s.y } ∧
    exec .tsx s = .next { done s 1 2 with x := s.sp, p := nz s.p s.sp } ∧
    exec .txs s = .next { done s 1 2 with sp := s.x }) ∧
  EncodedOne .tax 0xAA 2 ∧ EncodedOne .tay 0xA8 2 ∧ EncodedOne .txa 0x8A 2 ∧ EncodedOne .tya 0x98 2 ∧
  EncodedOne .tsx 0xBA 2 ∧ EncodedOne .txs 0x9A 2

/-! ### 42: arithmetic, logic, compare, increment, decrement -/

/-- The ADC path in exact arithmetic: result mod 256, C the unsigned carry, V the signed overflow, and V's source formula;
the two stages never both carry (R154). -/
def Obligations.AddWithCarryIsExact : Prop :=
  ∀ (a b : Byte) (cin : Bool),
    (addWithCarry a b cin).r.toNat = (a.toNat + b.toNat + cin.toNat) % 256 ∧
    (addWithCarry a b cin).c = decide (a.toNat + b.toNat + cin.toNat > 255) ∧
    (addWithCarry a b cin).v = (~~~(a ^^^ b) &&& (a ^^^ (addWithCarry a b cin).r)).getLsbD 7 ∧
    (addWithCarry a b cin).v = decide (a.toInt + b.toInt + cin.toNat < -128 ∨ a.toInt + b.toInt + cin.toNat > 127) ∧
    ¬ (a.toNat + b.toNat > 255 ∧ (a.toNat + b.toNat) % 256 + cin.toNat > 255)

/-- Subtraction on the ADC path: C means no borrow, V the signed overflow of the difference (R155). -/
def Obligations.SubWithBorrowIsExact : Prop :=
  ∀ (a m : Byte) (cin : Bool),
    subWithBorrow a m cin = addWithCarry a (~~~m) cin ∧
    (subWithBorrow a m cin).r = a - m - BitVec.ofNat 8 (1 - cin.toNat) ∧
    (subWithBorrow a m cin).c = decide (a.toNat ≥ m.toNat + (1 - cin.toNat)) ∧
    (subWithBorrow a m cin).v =
      decide (a.toInt - m.toInt - (1 - cin.toNat : Int) < -128 ∨ a.toInt - m.toInt - (1 - cin.toNat : Int) > 127)

/-- ADC and SBC: A, C, V, N, Z from the ADC path; D makes no difference (R200, R201). -/
def Obligations.AdcSbcResults : Prop :=
  (∀ (m : Mode) (s : State),
    (let r := addWithCarry s.a (operand s m) s.p.c
     exec (.adc m) s = .next { afterRead s m with a := r.r, p := { nz s.p r.r with c := r.c, v := r.v } }) ∧
    (let r := addWithCarry s.a (~~~(operand s m)) s.p.c
     exec (.sbc m) s = .next { afterRead s m with a := r.r, p := { nz s.p r.r with c := r.c, v := r.v } })) ∧
  EncodedAs .adc (fullRows 0x69 0x65 0x75 0x6D 0x7D 0x79 0x61 0x71) ∧
  EncodedAs .sbc (fullRows 0xE9 0xE5 0xF5 0xED 0xFD 0xF9 0xE1 0xF1)

/-- AND, ORA, EOR: A, N, Z (R202–R204); BIT: Z from A & M, N and V from M, A not written (R205). -/
def Obligations.LogicResults : Prop :=
  (∀ (m : Mode) (s : State),
    exec (.and m) s = .next { afterRead s m with a := s.a &&& operand s m, p := nz s.p (s.a &&& operand s m) } ∧
    exec (.ora m) s = .next { afterRead s m with a := s.a ||| operand s m, p := nz s.p (s.a ||| operand s m) } ∧
    exec (.eor m) s = .next { afterRead s m with a := s.a ^^^ operand s m, p := nz s.p (s.a ^^^ operand s m) } ∧
    exec (.bit m) s = .next { afterRead s m with p := { s.p with
      z := (s.a &&& operand s m) == 0, n := (operand s m).getLsbD 7, v := (operand s m).getLsbD 6 } }) ∧
  EncodedAs .and (fullRows 0x29 0x25 0x35 0x2D 0x3D 0x39 0x21 0x31) ∧
  EncodedAs .ora (fullRows 0x09 0x05 0x15 0x0D 0x1D 0x19 0x01 0x11) ∧
  EncodedAs .eor (fullRows 0x49 0x45 0x55 0x4D 0x5D 0x59 0x41 0x51) ∧
  EncodedAs .bit [(.zp, 0x24, 3), (.abs, 0x2C, 4)]

/-- The flags of a comparison (R156). -/
def Sys2Proof.Claims.comparedFlags (p : Flags) (reg m : Byte) : Flags :=
  { p with c := decide (reg.toNat ≥ m.toNat), z := reg == m, n := (reg - m).getLsbD 7 }

/-- CMP, CPX, CPY: C, Z, N only; no register is written (R206–R208). -/
def Obligations.CompareResults : Prop :=
  (∀ (m : Mode) (s : State),
    exec (.cmp m) s = .next { afterRead s m with p := comparedFlags s.p s.a (operand s m) } ∧
    exec (.cpx m) s = .next { afterRead s m with p := comparedFlags s.p s.x (operand s m) } ∧
    exec (.cpy m) s = .next { afterRead s m with p := comparedFlags s.p s.y (operand s m) }) ∧
  EncodedAs .cmp (fullRows 0xC9 0xC5 0xD5 0xCD 0xDD 0xD9 0xC1 0xD1) ∧
  EncodedAs .cpx [(.imm, 0xE0, 2), (.zp, 0xE4, 3), (.abs, 0xEC, 4)] ∧
  EncodedAs .cpy [(.imm, 0xC0, 2), (.zp, 0xC4, 3), (.abs, 0xCC, 4)]

/-- INC and DEC: one read and one write of EA; INX, INY, DEX, DEY: the register; each mod 256, with N and Z of the result
(R209–R214). -/
def Obligations.IncDecResults : Prop :=
  (∀ (m : Mode) (s : State),
    (let r := s.peek (ea s m) + 1
     exec (.inc m) s = .next { afterModify s m r with p := nz s.p r }) ∧
    (let r := s.peek (ea s m) - 1
     exec (.dec m) s = .next { afterModify s m r with p := nz s.p r })) ∧
  (∀ s : State,
    exec .inx s = .next { done s 1 2 with x := s.x + 1, p := nz s.p (s.x + 1) } ∧
    exec .iny s = .next { done s 1 2 with y := s.y + 1, p := nz s.p (s.y + 1) } ∧
    exec .dex s = .next { done s 1 2 with x := s.x - 1, p := nz s.p (s.x - 1) } ∧
    exec .dey s = .next { done s 1 2 with y := s.y - 1, p := nz s.p (s.y - 1) }) ∧
  EncodedAs .inc (modifyRows 0xE6 0xF6 0xEE 0xFE) ∧ EncodedAs .dec (modifyRows 0xC6 0xD6 0xCE 0xDE) ∧
  EncodedOne .inx 0xE8 2 ∧ EncodedOne .iny 0xC8 2 ∧ EncodedOne .dex 0xCA 2 ∧ EncodedOne .dey 0x88 2

/-! ### 43: shifts and rotates -/

/-- The shift functions in arithmetic: doubling and halving, with the carry in and out (R157). -/
def Obligations.ShiftFunctions : Prop :=
  ∀ (v : Byte) (c : Bool),
    ((aslF v).r.toNat = 2 * v.toNat % 256 ∧ (aslF v).c = decide (v.toNat ≥ 128)) ∧
    ((lsrF v).r.toNat = v.toNat / 2 ∧ (lsrF v).c = decide (v.toNat % 2 = 1)) ∧
    ((rolF v c).r.toNat = (2 * v.toNat + c.toNat) % 256 ∧ (rolF v c).c = decide (v.toNat ≥ 128)) ∧
    ((rorF v c).r.toNat = v.toNat / 2 + 128 * c.toNat ∧ (rorF v c).c = decide (v.toNat % 2 = 1))

/-- The accumulator forms: A, C the bit shifted out, N and Z (R230, R232, R234, R236). -/
def Obligations.AccumulatorShiftResults : Prop :=
  (∀ s : State,
    exec .aslA s = .next { done s 1 2 with a := s.a <<< 1, p := { nz s.p (s.a <<< 1) with c := s.a.getLsbD 7 } } ∧
    exec .lsrA s = .next { done s 1 2 with a := s.a >>> 1, p := { nz s.p (s.a >>> 1) with c := s.a.getLsbD 0 } } ∧
    (let r := (s.a <<< 1) ||| bitByte s.p.c
     exec .rolA s = .next { done s 1 2 with a := r, p := { nz s.p r with c := s.a.getLsbD 7 } }) ∧
    (let r := (s.a >>> 1) ||| (bitByte s.p.c <<< 7)
     exec .rorA s = .next { done s 1 2 with a := r, p := { nz s.p r with c := s.a.getLsbD 0 } })) ∧
  EncodedOne .aslA 0x0A 2 ∧ EncodedOne .lsrA 0x4A 2 ∧ EncodedOne .rolA 0x2A 2 ∧ EncodedOne .rorA 0x6A 2

/-- The memory forms: the result written at EA, A unchanged (R231, R233, R235, R237). -/
def Obligations.MemoryShiftResults : Prop :=
  (∀ (m : Mode) (s : State),
    (let v := s.peek (ea s m)
     exec (.asl m) s = .next { afterModify s m (v <<< 1) with p := { nz s.p (v <<< 1) with c := v.getLsbD 7 } } ∧
     exec (.lsr m) s = .next { afterModify s m (v >>> 1) with p := { nz s.p (v >>> 1) with c := v.getLsbD 0 } } ∧
     (let r := (v <<< 1) ||| bitByte s.p.c
      exec (.rol m) s = .next { afterModify s m r with p := { nz s.p r with c := v.getLsbD 7 } }) ∧
     (let r := (v >>> 1) ||| (bitByte s.p.c <<< 7)
      exec (.ror m) s = .next { afterModify s m r with p := { nz s.p r with c := v.getLsbD 0 } }))) ∧
  EncodedAs .asl (modifyRows 0x06 0x16 0x0E 0x1E) ∧ EncodedAs .lsr (modifyRows 0x46 0x56 0x4E 0x5E) ∧
  EncodedAs .rol (modifyRows 0x26 0x36 0x2E 0x3E) ∧ EncodedAs .ror (modifyRows 0x66 0x76 0x6E 0x7E)

/-- Nine rotations through the carry restore A and C, in either direction (R234's corner case). -/
def Obligations.NineRotatesRestore : Prop :=
  ∀ s : State,
    (∃ t, times .rolA 9 s = .next t ∧ t.a = s.a ∧ t.p.c = s.p.c) ∧
    (∃ t, times .rorA 9 s = .next t ∧ t.a = s.a ∧ t.p.c = s.p.c)

/-! ### 44: control transfer -/

/-- The eight branches: PC is the target when the condition holds, else pcn; nothing else but the cycles (R250–R258). -/
def Obligations.BranchResults : Prop :=
  ∀ i op cond, (i, op, cond) ∈ branches →
    (∀ (d : Byte) (s : State),
      exec (i d) s = .next
        (if cond s.p then
          { s with
            pc := s.pc + 2 + sext16 d
            cyc := s.cyc + BitVec.ofNat 64 (2 + branchPenalty s.par (s.pc + 2) (s.pc + 2 + sext16 d)) }
         else done s 2 2)) ∧
    (∀ b1 b2 : Byte, decodeAt op b1 b2 = i b1)

/-- JMP absolute and indirect: PC alone, the indirect target's high byte from the pointer's own page when the parameter
says so (R112, R259, R260). -/
def Obligations.JumpResults : Prop :=
  (∀ (w : Addr) (s : State),
    exec (.jmp w) s = .next { s with pc := w, cyc := s.cyc + 3 } ∧
    (let hiAt := if s.par.jmpIndBug then (w &&& 0xFF00) ||| ((w + 1) &&& 0x00FF) else w + 1
     exec (.jmpInd w) s = .next { s with
       pc := wordOf (s.peek hiAt) (s.peek w)
       cyc := s.cyc + 5
       bus := s.bus ++ [.read w (s.peek w), .read hiAt (s.peek hiAt)] })) ∧
  EncodedThree .jmp 0x4C 3 ∧ EncodedThree .jmpInd 0x6C 5

/-- JSR pushes pcn − 1, high byte first, and jumps; RTS pulls a word, low byte first, and jumps to it plus 1
(R261, R262). -/
def Obligations.CallReturnResults : Prop :=
  (∀ (w : Addr) (s : State),
    exec (.jsr w) s = .next { (s.push (hiByte (s.pc + 3 - 1))).push (loByte (s.pc + 3 - 1)) with
      pc := w, cyc := s.cyc + 6 }) ∧
  (∀ s : State,
    (let lo := s.peek (stackAddr (s.sp + 1))
     let hi := s.peek (stackAddr (s.sp + 1 + 1))
     exec .rts s = .next { s with
       sp := s.sp + 1 + 1
       pc := wordOf hi lo + 1
       cyc := s.cyc + 6
       bus := s.bus ++ [.read (stackAddr (s.sp + 1)) lo, .read (stackAddr (s.sp + 1 + 1)) hi] })) ∧
  EncodedThree .jsr 0x20 6 ∧ EncodedOne .rts 0x60 6

/-- JSR then RTS comes back to the byte after the JSR with SP and every register and flag as they were (R261, R262). -/
def Obligations.JsrThenRtsReturns : Prop :=
  ∀ (w : Addr) (s : State), ∃ t u, exec (.jsr w) s = .next t ∧ exec .rts t = .next u ∧
    t.pc = w ∧ u.pc = s.pc + 3 ∧ u.sp = s.sp ∧ u.a = s.a ∧ u.x = s.x ∧ u.y = s.y ∧ u.p = s.p

/-! ### The stack and file 45 -/

/-- Push and Pull of one byte, and the order of the two bytes of a word (R40, R41, R42). -/
def Obligations.PushAndPull : Prop :=
  ∀ (s : State) (v : Byte) (w : Addr),
    s.push v = { s with
      mem := s.mem.write (stackAddr s.sp).toNat v
      sp := s.sp - 1
      bus := s.bus ++ [.write (stackAddr s.sp) v] } ∧
    s.pull = (s.peek (stackAddr (s.sp + 1)), { s with
      sp := s.sp + 1
      bus := s.bus ++ [.read (stackAddr (s.sp + 1)) (s.peek (stackAddr (s.sp + 1)))] }) ∧
    s.push16 w = (s.push (hiByte w)).push (loByte w)

/-- A pushed word is pulled again and SP is restored, for every word and every SP (R43). -/
def Obligations.PushWordPullWord : Prop :=
  ∀ (s : State) (w : Addr), (s.push16 w).pull16.1 = w ∧ (s.push16 w).pull16.2.sp = s.sp ∧
    ∀ t : State, t.pull16.1 = wordOf t.pull.2.pull.1 t.pull.1 ∧ t.pull16.2 = t.pull.2.pull.2

/-- 256 pushes of A leave SP where it was, and so do 256 pulls (R270's corner case, R35). -/
def Obligations.StackPointerWraps : Prop :=
  ∀ s : State, (∃ t, times .pha 256 s = .next t ∧ t.sp = s.sp ∧ t.a = s.a) ∧
    (∃ t, times .pla 256 s = .next t ∧ t.sp = s.sp)

/-- PHA, PLA, PHP, PLP (R270–R273). -/
def Obligations.StackInstructionResults : Prop :=
  (∀ s : State,
    (let v := s.peek (stackAddr (s.sp + 1))
     exec .pha s = .next (done (s.push s.a) 1 3) ∧
     exec .pla s = .next { done s.pull.2 1 4 with a := v, p := nz s.p v } ∧
     exec .php s = .next (done (s.push (pack s.p ||| 0x30)) 1 3) ∧
     exec .plp s = .next { done s.pull.2 1 4 with p := pulledFlags v })) ∧
  EncodedOne .pha 0x48 3 ∧ EncodedOne .pla 0x68 4 ∧ EncodedOne .php 0x08 3 ∧ EncodedOne .plp 0x28 4

/-- CLC, SEC, CLI, SEI, CLD, SED, CLV change their one flag, and NOP nothing (R274–R281). -/
def Obligations.FlagInstructionResults : Prop :=
  ∀ i op f, (i, op, f) ∈ flagInstrs →
    (∀ s : State, exec i s = .next { done s 1 2 with p := f s.p }) ∧ EncodedOne i op 2

/-- The status byte's layout, U = 1 in it, and unpack ignoring bit 5 (R34, R49). -/
def Obligations.StatusByteLayout : Prop :=
  (∀ p : Flags, pack p = (bitByte p.n <<< 7) ||| (bitByte p.v <<< 6) ||| 0x20 ||| (bitByte p.b <<< 4) |||
      (bitByte p.d <<< 3) ||| (bitByte p.i <<< 2) ||| (bitByte p.z <<< 1) ||| bitByte p.c ∧
    unpack (pack p) = p ∧ (pack p).getLsbD 5 = true) ∧
  (∀ v : Byte, pack (unpack v) = v ||| 0x20 ∧ unpack (v ^^^ 0x20) = unpack v)

/-! ### 46: BRK and RTI -/

/-- BRK pushes pc0 + 2 and the status with B = 1, sets I after the push and loads PC from $FFFE; RTI pulls the status, then
the return address (R290, R291). -/
def Obligations.BrkRtiResults : Prop :=
  (∀ s : State,
    (let t := ((s.push (hiByte (s.pc + 2))).push (loByte (s.pc + 2))).push (pack { s.p with b := true })
     exec .brk s = .next { t with
       p := { s.p with b := true, i := true }
       pc := wordOf (t.peek 0xFFFF) (t.peek 0xFFFE)
       cyc := s.cyc + 7
       bus := t.bus ++ [.read 0xFFFE (t.peek 0xFFFE), .read 0xFFFF (t.peek 0xFFFF)] }) ∧
    (let s1 := stackAddr (s.sp + 1)
     let s2 := stackAddr (s.sp + 1 + 1)
     let s3 := stackAddr (s.sp + 1 + 1 + 1)
     exec .rti s = .next { s with
       p := pulledFlags (s.peek s1)
       pc := wordOf (s.peek s3) (s.peek s2)
       sp := s.sp + 1 + 1 + 1
       cyc := s.cyc + 6
       bus := s.bus ++ [.read s1 (s.peek s1), .read s2 (s.peek s2), .read s3 (s.peek s3)] })) ∧
  EncodedOne .brk 0x00 7 ∧ EncodedOne .rti 0x40 6

/-- After BRK, RTI resumes at pc0 + 2 with SP and the flags C, Z, I, D, V, N restored and B cleared (R348). -/
def Obligations.BrkThenRtiResumes : Prop :=
  ∀ s : State, ∃ t u, exec .brk s = .next t ∧ exec .rti t = .next u ∧ t.p.i = true ∧
    u.pc = s.pc + 2 ∧ u.sp = s.sp ∧ u.p = { s.p with b := false } ∧ u.a = s.a ∧ u.x = s.x ∧ u.y = s.y

/-! ### 47: unofficial instructions -/

/-- The six fused instructions: the first micro-operation on the byte at EA, one write of its result, the second
micro-operation on that result with the first one's carry (R301–R306). -/
def Obligations.FusedResults : Prop :=
  (∀ (m : Mode) (s : State),
    (let v := s.peek (ea s m)
     (let r := v <<< 1
      exec (.slo m) s = .next { afterModify s m r with
        a := s.a ||| r, p := { nz s.p (s.a ||| r) with c := v.getLsbD 7 } }) ∧
     (let r := (v <<< 1) ||| bitByte s.p.c
      exec (.rla m) s = .next { afterModify s m r with
        a := s.a &&& r, p := { nz s.p (s.a &&& r) with c := v.getLsbD 7 } }) ∧
     (let r := v >>> 1
      exec (.sre m) s = .next { afterModify s m r with
        a := s.a ^^^ r, p := { nz s.p (s.a ^^^ r) with c := v.getLsbD 0 } }) ∧
     (let r := (v >>> 1) ||| (bitByte s.p.c <<< 7)
      let q := addWithCarry s.a r (v.getLsbD 0)
      exec (.rra m) s = .next { afterModify s m r with a := q.r, p := { nz s.p q.r with c := q.c, v := q.v } }) ∧
     exec (.dcp m) s = .next { afterModify s m (v - 1) with p := comparedFlags s.p s.a (v - 1) } ∧
     (let q := addWithCarry s.a (~~~(v + 1)) s.p.c
      exec (.isc m) s = .next { afterModify s m (v + 1) with a := q.r, p := { nz s.p q.r with c := q.c, v := q.v } }))) ∧
  EncodedAs .slo (fusedRows 0x07 0x17 0x0F 0x1F 0x1B 0x03 0x13) ∧
  EncodedAs .rla (fusedRows 0x27 0x37 0x2F 0x3F 0x3B 0x23 0x33) ∧
  EncodedAs .sre (fusedRows 0x47 0x57 0x4F 0x5F 0x5B 0x43 0x53) ∧
  EncodedAs .rra (fusedRows 0x67 0x77 0x6F 0x7F 0x7B 0x63 0x73) ∧
  EncodedAs .dcp (fusedRows 0xC7 0xD7 0xCF 0xDF 0xDB 0xC3 0xD3) ∧
  EncodedAs .isc (fusedRows 0xE7 0xF7 0xEF 0xFF 0xFB 0xE3 0xF3)

/-- LAX loads A and X from one read; SAX stores A & X and sets no flag (R307, R308). -/
def Obligations.LaxSaxResults : Prop :=
  (∀ (m : Mode) (s : State),
    exec (.lax m) s = .next { afterRead s m with a := operand s m, x := operand s m, p := nz s.p (operand s m) } ∧
    exec (.sax m) s = .next (afterWrite s m (s.a &&& s.x))) ∧
  EncodedAs .lax [(.zp, 0xA7, 3), (.zpy, 0xB7, 4), (.abs, 0xAF, 4), (.absy, 0xBF, 4), (.izx, 0xA3, 6), (.izy, 0xB3, 5)] ∧
  EncodedAs .sax [(.zp, 0x87, 3), (.zpy, 0x97, 4), (.abs, 0x8F, 4), (.izx, 0x83, 6)]

/-- With P_EXTRA_UNOFFICIAL true the gated NOPs make their mode's data read and change nothing else but PC and the cycles, and
$EB is SBC #imm (R311–R317). -/
def Obligations.GatedResultsWhenEnabled : Prop :=
  (∀ s : State, s.par.extraUnofficial = true → ∀ (op b : Byte) (w : Addr),
    exec (.nopImp op) s = .next (done s 1 2) ∧
    exec (.nopImm op b) s = .next (done s 2 2) ∧
    exec (.nopZp op b) s = .next (afterRead s (.zp b)) ∧
    exec (.nopZpx op b) s = .next (afterRead s (.zpx b)) ∧
    exec (.nopAbs w) s = .next (afterRead s (.abs w)) ∧
    exec (.nopAbsx op w) s = .next (afterRead s (.absx w)) ∧
    exec (.sbcEB b) s = exec (.sbc (.imm b)) s ∧
    (let r := addWithCarry s.a (~~~b) s.p.c
     exec (.sbcEB b) s = .next { done s 2 2 with a := r.r, p := { nz s.p r.r with c := r.c, v := r.v } })) ∧
  (∀ op ∈ opsNopImp, EncodedOne (.nopImp op) op 2) ∧ (∀ op ∈ opsNopImm, EncodedTwo (.nopImm op) op 2) ∧
  (∀ op ∈ opsNopZp, EncodedTwo (.nopZp op) op 3) ∧ (∀ op ∈ opsNopZpx, EncodedTwo (.nopZpx op) op 4) ∧
  EncodedThree .nopAbs 0x0C 4 ∧ (∀ op ∈ opsNopAbsx, EncodedThree (.nopAbsx op) op 4) ∧ EncodedTwo .sbcEB 0xEB 2

/-- With P_EXTRA_UNOFFICIAL false a gated instruction raises UnimplementedOpcode: run alone changes; the gated bytes are the
28 of R123 (R310). -/
def Obligations.GatedFaultsWhenDisabled : Prop :=
  (∀ (i : Instr) (s : State), kindOf i = .gated → s.par.extraUnofficial = false →
    exec i s = .next { s with run := .faulted i.opcode s.pc }) ∧
  (∀ op b1 b2 : Byte, (kindOf (decodeAt op b1 b2) = .gated ↔ op ∈ gatedBytes) ∧ (decodeAt op b1 b2).opcode = op)

/-! ### 60: exceptions, NMI, host calls -/

/-- The instruction of an absent byte changes run alone, and the absent bytes are the 25 of R131; a step that fetches an absent
byte reads that byte alone and changes run alone; the cause code is 1 (R331). No step, NMI or reset is enabled afterwards: where
the spec has no transition the model answers the fault unimplementedOpcode op pc0, which is the model's rendering (log 1,
DEDUCED). -/
def Obligations.UnimplementedOpcodeFault : Prop :=
  (∀ (op : Byte) (s : State), exec (.unimplemented op) s = .next { s with run := .faulted op s.pc }) ∧
  (∀ (s : State) (op : Byte), s.run = .running → s.peek s.pc = op →
    (kindOf (decodeAt op 0 0) = .absent ∨ kindOf (decodeAt op 0 0) = .gated ∧ s.par.extraUnofficial = false) →
    ∃ t, step s = .next t ∧ t = { s with run := .faulted op s.pc, bus := [.read s.pc op] } ∧
      step t = .fault (.unimplementedOpcode op s.pc) ∧ nmiCall t = .fault (.unimplementedOpcode op s.pc) ∧
      resetCall t = .fault (.unimplementedOpcode op s.pc)) ∧
  (∀ op b1 b2 : Byte, kindOf (decodeAt op b1 b2) = .absent ↔ op ∈ opsAbsent) ∧
  (∀ op pc0, Fault.causeCode (.unimplementedOpcode op pc0) = 1)

/-- Every instruction answers a next state in every state, and so does every step of a running CORE: nothing but the
unimplemented-opcode fault stops it (R333), and that fault alone changes run, and changes nothing else (R331, R38). -/
def Obligations.NothingElseTraps : Prop :=
  (∀ (i : Instr) (s : State), ∃ t, exec i s = .next t ∧
    (if i.isAbsent s.par then t = { s with run := .faulted i.opcode s.pc } else t.run = s.run)) ∧
  (∀ s : State, s.run = .running → ∃ t, step s = .next t ∧
    ((∃ op pc0, t.run = .faulted op pc0) ↔ s.fetchInstr.isAbsent s.par = true))

/-- NMI entry: PC and the status with B = 0 and U = 1 are pushed, I is set, PC comes from $FFFA, 7 cycles; it is taken
whatever I is (R342, R341). -/
def Obligations.NmiEntry : Prop :=
  ∀ s : State, s.run = .running →
    let t := (({ s with bus := [] }.push (hiByte s.pc)).push (loByte s.pc)).push ((pack s.p &&& ~~~0x10) ||| 0x20)
    nmiCall s = .next { t with
      p := { s.p with i := true }
      pc := wordOf (t.peek 0xFFFB) (t.peek 0xFFFA)
      cyc := s.cyc + 7
      bus := t.bus ++ [.read 0xFFFA (t.peek 0xFFFA), .read 0xFFFB (t.peek 0xFFFB)] } ∧
    (pack { s.p with b := false } = (pack s.p &&& ~~~0x10) ||| 0x20)

/-- After an NMI, RTI resumes the interrupted stream with every register and flag as it was, the stored B cleared (R348). -/
def Obligations.NmiThenRtiResumes : Prop :=
  ∀ s : State, s.run = .running → ∃ t u, nmiCall s = .next t ∧ exec .rti t = .next u ∧ t.run = .running ∧
    u.pc = s.pc ∧ u.sp = s.sp ∧ u.p = { s.p with b := false } ∧ u.a = s.a ∧ u.x = s.x ∧ u.y = s.y

/-- `reset()` loads PC from $FFFC with two reads and changes nothing else (R370). -/
def Obligations.ResetCallWritesPcOnly : Prop :=
  ∀ s : State, s.run = .running →
    resetCall s = .next { s with
      pc := wordOf (s.peek 0xFFFD) (s.peek 0xFFFC)
      bus := [.read 0xFFFC (s.peek 0xFFFC), .read 0xFFFD (s.peek 0xFFFD)] }

/-- Power-on holds P_POWER_ON, cyc 0 and Running, and `reset()` changes PC alone, for every P_POWER_ON and every launch image
(R371). -/
def Obligations.PowerOnAndReset : Prop :=
  ∀ (par : Params) (r : PowerOn) (mem : Memory),
    let s := State.powerOn par r mem
    (s.a = r.a ∧ s.x = r.x ∧ s.y = r.y ∧ s.sp = r.sp ∧ s.pc = r.pc ∧ pack s.p = r.p ||| 0x20 ∧ s.cyc = 0 ∧
      s.run = .running ∧ s.mem = mem) ∧
    ∃ t, resetCall s = .next t ∧ t.pc = wordOf (s.peek 0xFFFD) (s.peek 0xFFFC) ∧
      t = { s with pc := t.pc, bus := t.bus }

/-- The model's State.reset: the reference profile, which is the model's choice (log 2), then one reset() with memory that
holds nothing. -/
def Obligations.ResetStateIsReferenceProfile : Prop :=
  resetCall (State.powerOn Config.params Config.powerOn []) = .next State.reset ∧
  State.reset.a = 0x00 ∧ State.reset.x = 0x00 ∧ State.reset.y = 0x00 ∧ State.reset.sp = 0xFD ∧
  pack State.reset.p = 0x24 ∧ State.reset.pc = 0x0000 ∧ State.reset.cyc = 0 ∧ State.reset.run = .running ∧
  State.reset.mem = []

/-- A launched program's bytes stand at $10000 − len up to $FFFF and every other cell reads 0 (R375). -/
def Obligations.LaunchImageBytes : Prop :=
  ∀ prog : List Byte, prog.length ≤ 65536 →
    (∀ k, (h : k < prog.length) → (launchImage prog).read (65536 - prog.length + k) = prog[k]) ∧
    (∀ a, a < 65536 - prog.length → (launchImage prog).read a = 0) ∧ (launchImage prog).wf = true

/-! ### 70: timing, the end of a run -/

/-- The penalties: with P_CYCLE_PENALTIES a Read-class instruction costs one more when its indexed address crosses a page, a
taken branch one more and two more across a page, and nothing else; without it nobody pays (R386). -/
def Obligations.CyclePenalties : Prop :=
  (∀ i ∈ readers, ∀ (m : Mode) (s : State), ∃ t, exec (i m) s = .next t ∧
    t.cyc = s.cyc + BitVec.ofNat 64 (readCost m + if s.par.cyclePenalties && crosses s m then 1 else 0)) ∧
  (∀ (op : Byte) (w : Addr) (s : State), s.par.extraUnofficial = true → ∃ t, exec (.nopAbsx op w) s = .next t ∧
    t.cyc = s.cyc + BitVec.ofNat 64 (4 + if s.par.cyclePenalties && crosses s (.absx w) then 1 else 0)) ∧
  (∀ (op b : Byte) (w : Addr) (s : State), s.par.extraUnofficial = true →
    (∃ t, exec (.nopImm op b) s = .next t ∧ t.cyc = s.cyc + 2) ∧ (∃ t, exec (.nopZp op b) s = .next t ∧ t.cyc = s.cyc + 3) ∧
    (∃ t, exec (.nopZpx op b) s = .next t ∧ t.cyc = s.cyc + 4) ∧ (∃ t, exec (.nopAbs w) s = .next t ∧ t.cyc = s.cyc + 4) ∧
    (∃ t, exec (.sbcEB b) s = .next t ∧ t.cyc = s.cyc + 2)) ∧
  (∀ i ∈ writers, ∀ (m : Mode) (s : State), ∃ t, exec (i m) s = .next t ∧ t.cyc = s.cyc + BitVec.ofNat 64 (writeCost m)) ∧
  (∀ i ∈ modifiers, ∀ (m : Mode) (s : State), ∃ t, exec (i m) s = .next t ∧
    t.cyc = s.cyc + BitVec.ofNat 64 (modifyCost m)) ∧
  (∀ i op cond, (i, op, cond) ∈ branches → ∀ (d : Byte) (s : State), ∃ t, exec (i d) s = .next t ∧
    (let target := s.pc + 2 + sext16 d
     t.cyc = s.cyc + BitVec.ofNat 64 (2 + if s.par.cyclePenalties && cond s.p then
       (if hiByte target = hiByte (s.pc + 2) then 1 else 2) else 0)))

/-- At a normal end every step gives the same state but for cyc and the bus transactions (R389). -/
def Obligations.NormalEndIsFixpoint : Prop :=
  ∀ (e : Addr) (s : State), normalEnd e s = true →
    ∃ t, step s = .next t ∧ t = { s with cyc := s.cyc + 3, bus := t.bus } ∧ normalEnd e t = true

/-! ### Memory, frames, invariants, isolation -/

/-- A byte written is read back, every other byte reads as before, a cell never written reads 0, and a read changes no
byte (R61, R74, R78). -/
def Obligations.ReadAfterWrite : Prop :=
  (∀ (s : State) (a b : Addr) (v : Byte),
    (s.memWrite a v).peek b = (if b = a then v else s.peek b) ∧ (s.memRead a).1 = s.peek a ∧
    (s.memRead a).2.peek b = s.peek b) ∧
  (∀ (m : Memory) (a b : Nat) (v : Byte), (m.write a v).read b = if b = a then v else m.read b) ∧
  (∀ a : Nat, Memory.read [] a = 0)

/-- Every step and every reset or NMI call keeps the storage in its canonical form. -/
def Obligations.StepKeepsMemoryCanonical : Prop :=
  ∀ s t : State, memoryOk s = true → (step s = .next t ∨ nmiCall s = .next t ∨ resetCall s = .next t) →
    memoryOk t = true

/-- The storage is in its canonical form at reset. -/
def Obligations.ResetMemoryCanonical : Prop := memoryOk State.reset = true

/-- A register changes only under its writers of R31, R32, R33 and R35. That no instruction changes the parameters of R8 is
the model's choice of where they stand (log 4), no rule of the spec. -/
def Obligations.RegisterWriters : Prop :=
  ∀ (i : Instr) (s : State), ∃ t, exec i s = .next t ∧
    (writesA i = false → t.a = s.a) ∧ (writesX i = false → t.x = s.x) ∧ (writesY i = false → t.y = s.y) ∧
    (writesSp i = false → t.sp = s.sp) ∧ t.par = s.par

/-- A flag changes only under its writers of R44–R48, R50 and R51, and V becomes 1 only through an ADC-path result, BIT, PLP
or RTI (R50). -/
def Obligations.FlagWriters : Prop :=
  ∀ (i : Instr) (s : State), ∃ t, exec i s = .next t ∧
    (writesC i = false → t.p.c = s.p.c) ∧ (writesNZ i = false → t.p.z = s.p.z ∧ t.p.n = s.p.n) ∧
    (writesV i = false → t.p.v = s.p.v) ∧ (writesI i = false → t.p.i = s.p.i) ∧
    (writesD i = false → t.p.d = s.p.d) ∧ (writesB i = false → t.p.b = s.p.b) ∧
    (i = .clv → t.p.v = false)

/-- Every byte of memory reads as before outside the addresses the instruction stores to. -/
def Obligations.MemoryFrame : Prop :=
  ∀ (i : Instr) (s : State), ∃ t, exec i s = .next t ∧ ∀ a : Addr, a ∉ stored s i → t.peek a = s.peek a

/-- The stored B is unobservable: two states that differ only in it step, take an NMI and reset to states that differ at most
in it, with the same bus transactions (R48). -/
def Obligations.StoredBreakIsUnobservable : Prop :=
  ∀ s s' : State, forgetB s = forgetB s' →
    Agree forgetB (step s) (step s') ∧ Agree forgetB (nmiCall s) (nmiCall s') ∧ Agree forgetB (resetCall s) (resetCall s')

/-- D and I gate nothing: apart from PHP and BRK, which push them, an instruction does the same whatever they are
(R46, R47). -/
def Obligations.DecimalAndInterruptGateNothing : Prop :=
  ∀ (i : Instr) (s s' : State), i ≠ .php → i ≠ .brk → forgetDI s = forgetDI s' → Agree forgetDI (exec i s) (exec i s')

/-- Nothing reads cyc (R37). -/
def Obligations.CycleCounterIsNeverRead : Prop :=
  ∀ s s' : State, forgetCyc s = forgetCyc s' →
    Agree forgetCyc (step s) (step s') ∧ Agree forgetCyc (nmiCall s) (nmiCall s') ∧
    Agree forgetCyc (resetCall s) (resetCall s')

/-! ### The bus as a parameter -/

/-- On every bus MemRead answers the bus's byte and threads its state, and MemWrite threads it (R60); the reference bus is the
flat Byte Storage (R61); the platform bus dispatches to the mapped device at the masked address and drops a miss (R62); and the
machine on the reference bus is exec and step. -/
def Obligations.BusIsAParameter : Prop :=
  (∀ (B : Bus) (s : State B) (a : Addr) (v : Byte),
    s.memRead a = ((B.port.read s.busState a).1,
      { s.setBusState (B.port.read s.busState a).2 with bus := s.bus ++ [.read a (B.port.read s.busState a).1] }) ∧
    s.memWrite a v = { s.setBusState (B.port.write s.busState a v) with bus := s.bus ++ [.write a v] }) ∧
  (∀ (c : BusState Unit) (a : Addr) (v : Byte),
    Bus.reference.port.read c a = (c.cells.read a.toNat, c) ∧
    Bus.reference.port.write c a v = { c with cells := c.cells.write a.toNat v }) ∧
  (∀ (Dev : Type) (map : Addr → Option Mapping) (devices : Nat → Device Dev) (c : BusState Dev) (a : Addr) (v : Byte),
    (map a = none → (Bus.platform map devices).port.read c a = (0, c) ∧ (Bus.platform map devices).port.write c a v = c) ∧
    (∀ k, map a = some { device := k, mirrorMask := none } →
      (Bus.platform map devices).port.read c a = (devices k).read c a ∧
      (Bus.platform map devices).port.write c a v = (devices k).write c a v) ∧
    (∀ k mask, map a = some { device := k, mirrorMask := some mask } →
      (Bus.platform map devices).port.read c a = (devices k).read c (a &&& mask) ∧
      (Bus.platform map devices).port.write c a v = (devices k).write c (a &&& mask) v)) ∧
  (∀ (i : Instr) (s : State), execOn i s = exec i s ∧ stepOn s = step s)

/-- The CORE reaches the bus by its transactions alone, on every bus, one whose reads change its state included: every step,
NMI and reset of a running CORE completes, each of its reads answered as the bus answers it at that point, and leaves the bus
state that its transactions, in order, leave (R60, R64, R66). -/
def Obligations.EveryTransitionIsItsTransactions : Prop :=
  ∀ (B : Bus) (s : State B), s.run = .running →
    (∃ t, stepOn s = .next t ∧ B.replay s.busState t.bus = some t.busState) ∧
    (∃ t, nmiCall s = .next t ∧ B.replay s.busState t.bus = some t.busState) ∧
    (∃ t, resetCall s = .next t ∧ B.replay s.busState t.bus = some t.busState)
end

