-- ==== Sys2Proof/Laws/State.lean ====
section
/-! SUPPORT. One lemma for each field of State under each update: true by rfl, so that no later proof unfolds a record
update. -/

namespace Sys2Proof.Machine

section AnyBus

variable {B : Bus} (s : State B)

@[simp] theorem State.setA_a (v : Byte) : (s.setA v).a = v := rfl
@[simp] theorem State.setA_x (v : Byte) : (s.setA v).x = s.x := rfl
@[simp] theorem State.setA_y (v : Byte) : (s.setA v).y = s.y := rfl
@[simp] theorem State.setA_sp (v : Byte) : (s.setA v).sp = s.sp := rfl
@[simp] theorem State.setA_pc (v : Byte) : (s.setA v).pc = s.pc := rfl
@[simp] theorem State.setA_p (v : Byte) : (s.setA v).p = s.p := rfl
@[simp] theorem State.setA_cyc (v : Byte) : (s.setA v).cyc = s.cyc := rfl
@[simp] theorem State.setA_run (v : Byte) : (s.setA v).run = s.run := rfl
@[simp] theorem State.setA_mem (v : Byte) : (s.setA v).mem = s.mem := rfl
@[simp] theorem State.setA_dev (v : Byte) : (s.setA v).dev = s.dev := rfl
@[simp] theorem State.setA_bus (v : Byte) : (s.setA v).bus = s.bus := rfl
@[simp] theorem State.setA_par (v : Byte) : (s.setA v).par = s.par := rfl

@[simp] theorem State.setX_a (v : Byte) : (s.setX v).a = s.a := rfl
@[simp] theorem State.setX_x (v : Byte) : (s.setX v).x = v := rfl
@[simp] theorem State.setX_y (v : Byte) : (s.setX v).y = s.y := rfl
@[simp] theorem State.setX_sp (v : Byte) : (s.setX v).sp = s.sp := rfl
@[simp] theorem State.setX_pc (v : Byte) : (s.setX v).pc = s.pc := rfl
@[simp] theorem State.setX_p (v : Byte) : (s.setX v).p = s.p := rfl
@[simp] theorem State.setX_cyc (v : Byte) : (s.setX v).cyc = s.cyc := rfl
@[simp] theorem State.setX_run (v : Byte) : (s.setX v).run = s.run := rfl
@[simp] theorem State.setX_mem (v : Byte) : (s.setX v).mem = s.mem := rfl
@[simp] theorem State.setX_dev (v : Byte) : (s.setX v).dev = s.dev := rfl
@[simp] theorem State.setX_bus (v : Byte) : (s.setX v).bus = s.bus := rfl
@[simp] theorem State.setX_par (v : Byte) : (s.setX v).par = s.par := rfl

@[simp] theorem State.setY_a (v : Byte) : (s.setY v).a = s.a := rfl
@[simp] theorem State.setY_x (v : Byte) : (s.setY v).x = s.x := rfl
@[simp] theorem State.setY_y (v : Byte) : (s.setY v).y = v := rfl
@[simp] theorem State.setY_sp (v : Byte) : (s.setY v).sp = s.sp := rfl
@[simp] theorem State.setY_pc (v : Byte) : (s.setY v).pc = s.pc := rfl
@[simp] theorem State.setY_p (v : Byte) : (s.setY v).p = s.p := rfl
@[simp] theorem State.setY_cyc (v : Byte) : (s.setY v).cyc = s.cyc := rfl
@[simp] theorem State.setY_run (v : Byte) : (s.setY v).run = s.run := rfl
@[simp] theorem State.setY_mem (v : Byte) : (s.setY v).mem = s.mem := rfl
@[simp] theorem State.setY_dev (v : Byte) : (s.setY v).dev = s.dev := rfl
@[simp] theorem State.setY_bus (v : Byte) : (s.setY v).bus = s.bus := rfl
@[simp] theorem State.setY_par (v : Byte) : (s.setY v).par = s.par := rfl

@[simp] theorem State.setSp_a (v : Byte) : (s.setSp v).a = s.a := rfl
@[simp] theorem State.setSp_x (v : Byte) : (s.setSp v).x = s.x := rfl
@[simp] theorem State.setSp_y (v : Byte) : (s.setSp v).y = s.y := rfl
@[simp] theorem State.setSp_sp (v : Byte) : (s.setSp v).sp = v := rfl
@[simp] theorem State.setSp_pc (v : Byte) : (s.setSp v).pc = s.pc := rfl
@[simp] theorem State.setSp_p (v : Byte) : (s.setSp v).p = s.p := rfl
@[simp] theorem State.setSp_cyc (v : Byte) : (s.setSp v).cyc = s.cyc := rfl
@[simp] theorem State.setSp_run (v : Byte) : (s.setSp v).run = s.run := rfl
@[simp] theorem State.setSp_mem (v : Byte) : (s.setSp v).mem = s.mem := rfl
@[simp] theorem State.setSp_dev (v : Byte) : (s.setSp v).dev = s.dev := rfl
@[simp] theorem State.setSp_bus (v : Byte) : (s.setSp v).bus = s.bus := rfl
@[simp] theorem State.setSp_par (v : Byte) : (s.setSp v).par = s.par := rfl

@[simp] theorem State.setPc_a (v : Addr) : (s.setPc v).a = s.a := rfl
@[simp] theorem State.setPc_x (v : Addr) : (s.setPc v).x = s.x := rfl
@[simp] theorem State.setPc_y (v : Addr) : (s.setPc v).y = s.y := rfl
@[simp] theorem State.setPc_sp (v : Addr) : (s.setPc v).sp = s.sp := rfl
@[simp] theorem State.setPc_pc (v : Addr) : (s.setPc v).pc = v := rfl
@[simp] theorem State.setPc_p (v : Addr) : (s.setPc v).p = s.p := rfl
@[simp] theorem State.setPc_cyc (v : Addr) : (s.setPc v).cyc = s.cyc := rfl
@[simp] theorem State.setPc_run (v : Addr) : (s.setPc v).run = s.run := rfl
@[simp] theorem State.setPc_mem (v : Addr) : (s.setPc v).mem = s.mem := rfl
@[simp] theorem State.setPc_dev (v : Addr) : (s.setPc v).dev = s.dev := rfl
@[simp] theorem State.setPc_bus (v : Addr) : (s.setPc v).bus = s.bus := rfl
@[simp] theorem State.setPc_par (v : Addr) : (s.setPc v).par = s.par := rfl

@[simp] theorem State.setP_a (v : Flags) : (s.setP v).a = s.a := rfl
@[simp] theorem State.setP_x (v : Flags) : (s.setP v).x = s.x := rfl
@[simp] theorem State.setP_y (v : Flags) : (s.setP v).y = s.y := rfl
@[simp] theorem State.setP_sp (v : Flags) : (s.setP v).sp = s.sp := rfl
@[simp] theorem State.setP_pc (v : Flags) : (s.setP v).pc = s.pc := rfl
@[simp] theorem State.setP_p (v : Flags) : (s.setP v).p = v := rfl
@[simp] theorem State.setP_cyc (v : Flags) : (s.setP v).cyc = s.cyc := rfl
@[simp] theorem State.setP_run (v : Flags) : (s.setP v).run = s.run := rfl
@[simp] theorem State.setP_mem (v : Flags) : (s.setP v).mem = s.mem := rfl
@[simp] theorem State.setP_dev (v : Flags) : (s.setP v).dev = s.dev := rfl
@[simp] theorem State.setP_bus (v : Flags) : (s.setP v).bus = s.bus := rfl
@[simp] theorem State.setP_par (v : Flags) : (s.setP v).par = s.par := rfl

@[simp] theorem State.setNZ_a (v : Byte) : (s.setNZ v).a = s.a := rfl
@[simp] theorem State.setNZ_x (v : Byte) : (s.setNZ v).x = s.x := rfl
@[simp] theorem State.setNZ_y (v : Byte) : (s.setNZ v).y = s.y := rfl
@[simp] theorem State.setNZ_sp (v : Byte) : (s.setNZ v).sp = s.sp := rfl
@[simp] theorem State.setNZ_pc (v : Byte) : (s.setNZ v).pc = s.pc := rfl
@[simp] theorem State.setNZ_p (v : Byte) : (s.setNZ v).p = s.p.setNZ v := rfl
@[simp] theorem State.setNZ_cyc (v : Byte) : (s.setNZ v).cyc = s.cyc := rfl
@[simp] theorem State.setNZ_run (v : Byte) : (s.setNZ v).run = s.run := rfl
@[simp] theorem State.setNZ_mem (v : Byte) : (s.setNZ v).mem = s.mem := rfl
@[simp] theorem State.setNZ_dev (v : Byte) : (s.setNZ v).dev = s.dev := rfl
@[simp] theorem State.setNZ_bus (v : Byte) : (s.setNZ v).bus = s.bus := rfl
@[simp] theorem State.setNZ_par (v : Byte) : (s.setNZ v).par = s.par := rfl

@[simp] theorem State.addCycles_a (n : Nat) : (s.addCycles n).a = s.a := rfl
@[simp] theorem State.addCycles_x (n : Nat) : (s.addCycles n).x = s.x := rfl
@[simp] theorem State.addCycles_y (n : Nat) : (s.addCycles n).y = s.y := rfl
@[simp] theorem State.addCycles_sp (n : Nat) : (s.addCycles n).sp = s.sp := rfl
@[simp] theorem State.addCycles_pc (n : Nat) : (s.addCycles n).pc = s.pc := rfl
@[simp] theorem State.addCycles_p (n : Nat) : (s.addCycles n).p = s.p := rfl
@[simp] theorem State.addCycles_cyc (n : Nat) : (s.addCycles n).cyc = s.cyc + BitVec.ofNat 64 n := rfl
@[simp] theorem State.addCycles_run (n : Nat) : (s.addCycles n).run = s.run := rfl
@[simp] theorem State.addCycles_mem (n : Nat) : (s.addCycles n).mem = s.mem := rfl
@[simp] theorem State.addCycles_dev (n : Nat) : (s.addCycles n).dev = s.dev := rfl
@[simp] theorem State.addCycles_bus (n : Nat) : (s.addCycles n).bus = s.bus := rfl
@[simp] theorem State.addCycles_par (n : Nat) : (s.addCycles n).par = s.par := rfl

@[simp] theorem State.newTransition_a : (s.newTransition).a = s.a := rfl
@[simp] theorem State.newTransition_x : (s.newTransition).x = s.x := rfl
@[simp] theorem State.newTransition_y : (s.newTransition).y = s.y := rfl
@[simp] theorem State.newTransition_sp : (s.newTransition).sp = s.sp := rfl
@[simp] theorem State.newTransition_pc : (s.newTransition).pc = s.pc := rfl
@[simp] theorem State.newTransition_p : (s.newTransition).p = s.p := rfl
@[simp] theorem State.newTransition_cyc : (s.newTransition).cyc = s.cyc := rfl
@[simp] theorem State.newTransition_run : (s.newTransition).run = s.run := rfl
@[simp] theorem State.newTransition_mem : (s.newTransition).mem = s.mem := rfl
@[simp] theorem State.newTransition_dev : (s.newTransition).dev = s.dev := rfl
@[simp] theorem State.newTransition_bus : (s.newTransition).bus = [] := rfl
@[simp] theorem State.newTransition_par : (s.newTransition).par = s.par := rfl
@[simp] theorem State.busUpdate_a (b : BusState B.Dev) : (s.busUpdate b).a = s.a := rfl
@[simp] theorem State.busUpdate_x (b : BusState B.Dev) : (s.busUpdate b).x = s.x := rfl
@[simp] theorem State.busUpdate_y (b : BusState B.Dev) : (s.busUpdate b).y = s.y := rfl
@[simp] theorem State.busUpdate_sp (b : BusState B.Dev) : (s.busUpdate b).sp = s.sp := rfl
@[simp] theorem State.busUpdate_pc (b : BusState B.Dev) : (s.busUpdate b).pc = s.pc := rfl
@[simp] theorem State.busUpdate_p (b : BusState B.Dev) : (s.busUpdate b).p = s.p := rfl
@[simp] theorem State.busUpdate_cyc (b : BusState B.Dev) : (s.busUpdate b).cyc = s.cyc := rfl
@[simp] theorem State.busUpdate_run (b : BusState B.Dev) : (s.busUpdate b).run = s.run := rfl
@[simp] theorem State.busUpdate_par (b : BusState B.Dev) : (s.busUpdate b).par = s.par := rfl
@[simp] theorem State.busUpdate_mem (b : BusState B.Dev) : (s.busUpdate b).mem = b.cells := rfl
@[simp] theorem State.busUpdate_dev (b : BusState B.Dev) : (s.busUpdate b).dev = b.dev := rfl
@[simp] theorem State.busUpdate_bus (b : BusState B.Dev) : (s.busUpdate b).bus = [] := rfl

@[simp] theorem State.memWrite_a (d : Addr) (v : Byte) : (s.memWrite d v).a = s.a := rfl
@[simp] theorem State.memWrite_x (d : Addr) (v : Byte) : (s.memWrite d v).x = s.x := rfl
@[simp] theorem State.memWrite_y (d : Addr) (v : Byte) : (s.memWrite d v).y = s.y := rfl
@[simp] theorem State.memWrite_sp (d : Addr) (v : Byte) : (s.memWrite d v).sp = s.sp := rfl
@[simp] theorem State.memWrite_pc (d : Addr) (v : Byte) : (s.memWrite d v).pc = s.pc := rfl
@[simp] theorem State.memWrite_p (d : Addr) (v : Byte) : (s.memWrite d v).p = s.p := rfl
@[simp] theorem State.memWrite_cyc (d : Addr) (v : Byte) : (s.memWrite d v).cyc = s.cyc := rfl
@[simp] theorem State.memWrite_run (d : Addr) (v : Byte) : (s.memWrite d v).run = s.run := rfl
@[simp] theorem State.memWrite_bus (d : Addr) (v : Byte) : (s.memWrite d v).bus = s.bus ++ [.write d v] := rfl
@[simp] theorem State.memWrite_par (d : Addr) (v : Byte) : (s.memWrite d v).par = s.par := rfl

@[simp] theorem State.raiseUnimplemented_a (op : Byte) : (s.raiseUnimplemented op).a = s.a := rfl
@[simp] theorem State.raiseUnimplemented_x (op : Byte) : (s.raiseUnimplemented op).x = s.x := rfl
@[simp] theorem State.raiseUnimplemented_y (op : Byte) : (s.raiseUnimplemented op).y = s.y := rfl
@[simp] theorem State.raiseUnimplemented_sp (op : Byte) : (s.raiseUnimplemented op).sp = s.sp := rfl
@[simp] theorem State.raiseUnimplemented_pc (op : Byte) : (s.raiseUnimplemented op).pc = s.pc := rfl
@[simp] theorem State.raiseUnimplemented_p (op : Byte) : (s.raiseUnimplemented op).p = s.p := rfl
@[simp] theorem State.raiseUnimplemented_cyc (op : Byte) : (s.raiseUnimplemented op).cyc = s.cyc := rfl
@[simp] theorem State.raiseUnimplemented_run (op : Byte) : (s.raiseUnimplemented op).run = .faulted op s.pc := rfl
@[simp] theorem State.raiseUnimplemented_mem (op : Byte) : (s.raiseUnimplemented op).mem = s.mem := rfl
@[simp] theorem State.raiseUnimplemented_dev (op : Byte) : (s.raiseUnimplemented op).dev = s.dev := rfl
@[simp] theorem State.raiseUnimplemented_bus (op : Byte) : (s.raiseUnimplemented op).bus = s.bus := rfl
@[simp] theorem State.raiseUnimplemented_par (op : Byte) : (s.raiseUnimplemented op).par = s.par := rfl

@[simp] theorem State.push_a (v : Byte) : (s.push v).a = s.a := rfl
@[simp] theorem State.push_x (v : Byte) : (s.push v).x = s.x := rfl
@[simp] theorem State.push_y (v : Byte) : (s.push v).y = s.y := rfl
@[simp] theorem State.push_sp (v : Byte) : (s.push v).sp = s.sp - 1 := rfl
@[simp] theorem State.push_pc (v : Byte) : (s.push v).pc = s.pc := rfl
@[simp] theorem State.push_p (v : Byte) : (s.push v).p = s.p := rfl
@[simp] theorem State.push_cyc (v : Byte) : (s.push v).cyc = s.cyc := rfl
@[simp] theorem State.push_run (v : Byte) : (s.push v).run = s.run := rfl
@[simp] theorem State.push_bus (v : Byte) : (s.push v).bus = s.bus ++ [.write (stackAddr s.sp) v] := rfl
@[simp] theorem State.push_par (v : Byte) : (s.push v).par = s.par := rfl

@[simp] theorem State.memRead_a (d : Addr) : (s.memRead d).2.a = s.a := rfl
@[simp] theorem State.memRead_x (d : Addr) : (s.memRead d).2.x = s.x := rfl
@[simp] theorem State.memRead_y (d : Addr) : (s.memRead d).2.y = s.y := rfl
@[simp] theorem State.memRead_sp (d : Addr) : (s.memRead d).2.sp = s.sp := rfl
@[simp] theorem State.memRead_pc (d : Addr) : (s.memRead d).2.pc = s.pc := rfl
@[simp] theorem State.memRead_p (d : Addr) : (s.memRead d).2.p = s.p := rfl
@[simp] theorem State.memRead_cyc (d : Addr) : (s.memRead d).2.cyc = s.cyc := rfl
@[simp] theorem State.memRead_run (d : Addr) : (s.memRead d).2.run = s.run := rfl
@[simp] theorem State.memRead_bus (d : Addr) : (s.memRead d).2.bus = s.bus ++ [.read d (s.peek d)] := rfl
@[simp] theorem State.memRead_par (d : Addr) : (s.memRead d).2.par = s.par := rfl

@[simp] theorem State.pull_a : (s.pull).2.a = s.a := rfl
@[simp] theorem State.pull_x : (s.pull).2.x = s.x := rfl
@[simp] theorem State.pull_y : (s.pull).2.y = s.y := rfl
@[simp] theorem State.pull_sp : (s.pull).2.sp = s.sp + 1 := rfl
@[simp] theorem State.pull_pc : (s.pull).2.pc = s.pc := rfl
@[simp] theorem State.pull_p : (s.pull).2.p = s.p := rfl
@[simp] theorem State.pull_cyc : (s.pull).2.cyc = s.cyc := rfl
@[simp] theorem State.pull_run : (s.pull).2.run = s.run := rfl
@[simp] theorem State.pull_bus : (s.pull).2.bus = s.bus ++ [.read (stackAddr (s.sp + 1)) (s.peek (stackAddr (s.sp + 1)))] := rfl
@[simp] theorem State.pull_par : (s.pull).2.par = s.par := rfl

@[simp] theorem State.readPair_a (lo hi : Addr) : (s.readPair lo hi).2.a = s.a := rfl
@[simp] theorem State.readPair_x (lo hi : Addr) : (s.readPair lo hi).2.x = s.x := rfl
@[simp] theorem State.readPair_y (lo hi : Addr) : (s.readPair lo hi).2.y = s.y := rfl
@[simp] theorem State.readPair_sp (lo hi : Addr) : (s.readPair lo hi).2.sp = s.sp := rfl
@[simp] theorem State.readPair_pc (lo hi : Addr) : (s.readPair lo hi).2.pc = s.pc := rfl
@[simp] theorem State.readPair_p (lo hi : Addr) : (s.readPair lo hi).2.p = s.p := rfl
@[simp] theorem State.readPair_cyc (lo hi : Addr) : (s.readPair lo hi).2.cyc = s.cyc := rfl
@[simp] theorem State.readPair_run (lo hi : Addr) : (s.readPair lo hi).2.run = s.run := rfl
@[simp] theorem State.readPair_par (lo hi : Addr) : (s.readPair lo hi).2.par = s.par := rfl

/-- What each read answers. -/
@[simp] theorem State.memRead_value (d : Addr) : (s.memRead d).1 = s.peek d := rfl
@[simp] theorem State.pull_value : s.pull.1 = s.peek (stackAddr (s.sp + 1)) := rfl

/-- An update that leaves the bus state alone leaves what each read would answer alone. -/
theorem State.peek_congr_bus {s t : State B} (h : t.busState = s.busState) (d : Addr) : t.peek d = s.peek d := by
  simp [State.peek, h]

@[simp] theorem State.setA_peek (v : Byte) (d : Addr) : (s.setA v).peek d = s.peek d := rfl
@[simp] theorem State.setX_peek (v : Byte) (d : Addr) : (s.setX v).peek d = s.peek d := rfl
@[simp] theorem State.setY_peek (v : Byte) (d : Addr) : (s.setY v).peek d = s.peek d := rfl
@[simp] theorem State.setSp_peek (v : Byte) (d : Addr) : (s.setSp v).peek d = s.peek d := rfl
@[simp] theorem State.setPc_peek (v : Addr) (d : Addr) : (s.setPc v).peek d = s.peek d := rfl
@[simp] theorem State.setP_peek (v : Flags) (d : Addr) : (s.setP v).peek d = s.peek d := rfl
@[simp] theorem State.setNZ_peek (v : Byte) (d : Addr) : (s.setNZ v).peek d = s.peek d := rfl
@[simp] theorem State.addCycles_peek (n : Nat) (d : Addr) : (s.addCycles n).peek d = s.peek d := rfl
@[simp] theorem State.newTransition_peek (d : Addr) : (s.newTransition).peek d = s.peek d := rfl
@[simp] theorem State.raiseUnimplemented_peek (op : Byte) (d : Addr) : (s.raiseUnimplemented op).peek d = s.peek d := rfl

@[simp] theorem State.setBusState_busState (b : BusState B.Dev) : (s.setBusState b).busState = b := rfl

/-- A read threads the bus state (R60, R64). -/
@[simp] theorem State.memRead_busState (d : Addr) : (s.memRead d).2.busState = (B.port.read s.busState d).2 := rfl
/-- A write threads the bus state (R60). -/
@[simp] theorem State.memWrite_busState (d : Addr) (v : Byte) :
    (s.memWrite d v).busState = B.port.write s.busState d v := rfl

end AnyBus

/-! ### On the reference bus -/

section Reference

variable (s : State)

/-- The reference bus holds the last written value or 0 (R61). -/
theorem State.peek_reference (d : Addr) : s.peek d = s.mem.read d.toNat := rfl

/-- On the reference bus a read changes the bus transactions alone (R61). -/
theorem State.memRead_reference (d : Addr) :
    s.memRead d = (s.peek d, { s with bus := s.bus ++ [.read d (s.peek d)] }) := rfl

/-- On the reference bus a write stores its byte (R61). -/
theorem State.memWrite_reference (d : Addr) (v : Byte) :
    s.memWrite d v = { s with mem := s.mem.write d.toNat v, bus := s.bus ++ [.write d v] } := rfl

/-- An update that leaves memory alone leaves every byte's reading alone. -/
theorem State.peek_congr {s t : State} (h : t.mem = s.mem) (d : Addr) : t.peek d = s.peek d := by
  simp [State.peek_reference, h]

@[simp] theorem State.memWrite_mem (d : Addr) (v : Byte) : (s.memWrite d v).mem = s.mem.write d.toNat v := rfl
@[simp] theorem State.memWrite_dev (d : Addr) (v : Byte) : (s.memWrite d v).dev = s.dev := rfl
@[simp] theorem State.push_mem (v : Byte) : (s.push v).mem = s.mem.write (stackAddr s.sp).toNat v := rfl
@[simp] theorem State.push_dev (v : Byte) : (s.push v).dev = s.dev := rfl
@[simp] theorem State.memRead_mem (d : Addr) : (s.memRead d).2.mem = s.mem := rfl
@[simp] theorem State.memRead_dev (d : Addr) : (s.memRead d).2.dev = s.dev := rfl
@[simp] theorem State.pull_mem : (s.pull).2.mem = s.mem := rfl
@[simp] theorem State.pull_dev : (s.pull).2.dev = s.dev := rfl
@[simp] theorem State.readPair_mem (lo hi : Addr) : (s.readPair lo hi).2.mem = s.mem := rfl
@[simp] theorem State.readPair_dev (lo hi : Addr) : (s.readPair lo hi).2.dev = s.dev := rfl
@[simp] theorem State.readPair_bus (lo hi : Addr) : (s.readPair lo hi).2.bus = s.bus ++ [.read lo (s.peek lo)] ++ [.read hi (s.peek hi)] := rfl
@[simp] theorem State.readPair_value (lo hi : Addr) : (s.readPair lo hi).1 = wordOf (s.peek hi) (s.peek lo) := rfl
@[simp] theorem State.memRead_peek (e d : Addr) : (s.memRead e).2.peek d = s.peek d := rfl
@[simp] theorem State.pull_peek (d : Addr) : s.pull.2.peek d = s.peek d := rfl
@[simp] theorem State.readPair_peek (lo hi d : Addr) : (s.readPair lo hi).2.peek d = s.peek d := rfl

end Reference

end Sys2Proof.Machine
end

