-- ==== Sys2Proof/Laws/Bus.lean ====
section
/-! SUPPORT. The machine on any bus: the bus state is reached by the logged transactions, and the reference bus gives exec and
step. -/

namespace Sys2Proof.Machine

variable {B : Bus}

/-- Transactions in two parts. -/
theorem Bus.replay_append (b : BusState B.Dev) (l k : List Access) :
    B.replay b (l ++ k) = (B.replay b l).bind fun c => B.replay c k := by
  induction l generalizing b with
  | nil => rfl
  | cons x l ih =>
    cases x with
    | read a v =>
      simp only [List.cons_append, Bus.replay]
      split
      · exact ih _
      · rfl
    | write a v => exact ih _

/-- A state whose bus state is what its transactions, from `b` on, leave. -/
def State.tracedFrom (b : BusState B.Dev) (s : State B) : Prop := B.replay b s.bus = some s.busState

/-- A new transition is traced from its own bus state. -/
theorem State.traced_new (s : State B) : s.newTransition.tracedFrom s.busState := rfl

/-- A read keeps the trace. -/
theorem State.traced_memRead {b : BusState B.Dev} {s : State B} (h : s.tracedFrom b) (a : Addr) :
    (s.memRead a).2.tracedFrom b := by
  simp only [State.tracedFrom] at h ⊢
  simp only [State.memRead_bus, Bus.replay_append, h, Option.bind_some, Bus.replay, State.peek, if_true,
    State.memRead_busState]

/-- A write keeps the trace. -/
theorem State.traced_memWrite {b : BusState B.Dev} {s : State B} (h : s.tracedFrom b) (a : Addr) (v : Byte) :
    (s.memWrite a v).tracedFrom b := by
  simp only [State.tracedFrom] at h ⊢
  simp only [State.memWrite_bus, Bus.replay_append, h, Option.bind_some, Bus.replay, State.memWrite_busState]

/-! An update of a register leaves the bus state and the transactions alone. -/

@[simp] theorem State.traced_setA {b : BusState B.Dev} {s : State B} (v : Byte) :
    (s.setA v).tracedFrom b ↔ s.tracedFrom b := Iff.rfl
@[simp] theorem State.traced_setX {b : BusState B.Dev} {s : State B} (v : Byte) :
    (s.setX v).tracedFrom b ↔ s.tracedFrom b := Iff.rfl
@[simp] theorem State.traced_setY {b : BusState B.Dev} {s : State B} (v : Byte) :
    (s.setY v).tracedFrom b ↔ s.tracedFrom b := Iff.rfl
@[simp] theorem State.traced_setSp {b : BusState B.Dev} {s : State B} (v : Byte) :
    (s.setSp v).tracedFrom b ↔ s.tracedFrom b := Iff.rfl
@[simp] theorem State.traced_setPc {b : BusState B.Dev} {s : State B} (v : Addr) :
    (s.setPc v).tracedFrom b ↔ s.tracedFrom b := Iff.rfl
@[simp] theorem State.traced_setP {b : BusState B.Dev} {s : State B} (v : Flags) :
    (s.setP v).tracedFrom b ↔ s.tracedFrom b := Iff.rfl
@[simp] theorem State.traced_setNZ {b : BusState B.Dev} {s : State B} (v : Byte) :
    (s.setNZ v).tracedFrom b ↔ s.tracedFrom b := Iff.rfl
@[simp] theorem State.traced_addCycles {b : BusState B.Dev} {s : State B} (v : Nat) :
    (s.addCycles v).tracedFrom b ↔ s.tracedFrom b := Iff.rfl
@[simp] theorem State.traced_raiseUnimplemented {b : BusState B.Dev} {s : State B} (v : Byte) :
    (s.raiseUnimplemented v).tracedFrom b ↔ s.tracedFrom b := Iff.rfl

/-- A push keeps the trace. -/
theorem State.traced_push {b : BusState B.Dev} {s : State B} (h : s.tracedFrom b) (v : Byte) : (s.push v).tracedFrom b :=
  (State.traced_setSp _).2 (State.traced_memWrite h _ v)

/-- A pull keeps the trace. -/
theorem State.traced_pull {b : BusState B.Dev} {s : State B} (h : s.tracedFrom b) : s.pull.2.tracedFrom b :=
  State.traced_memRead ((State.traced_setSp (s.sp + 1)).2 h) _

/-- Two reads keep the trace. -/
theorem State.traced_readPair {b : BusState B.Dev} {s : State B} (h : s.tracedFrom b) (lo hi : Addr) :
    (s.readPair lo hi).2.tracedFrom b :=
  State.traced_memRead (State.traced_memRead h lo) hi

/-- Resolving a mode keeps the trace. -/
theorem State.traced_resolve {b : BusState B.Dev} {s : State B} (h : s.tracedFrom b) (m : Mode) :
    (s.resolve m).2.tracedFrom b := by
  cases m <;> first | exact h | exact State.traced_readPair h _ _

/-- Reading an operand keeps the trace. -/
theorem State.traced_readOperand {b : BusState B.Dev} {s : State B} (h : s.tracedFrom b) (m : Mode) :
    (s.readOperand m).2.tracedFrom b := by
  cases m <;> first | exact h | exact State.traced_memRead (State.traced_resolve h _) _

/-- Loading a vector keeps the trace. -/
theorem State.traced_loadVector {b : BusState B.Dev} {s : State B} (h : s.tracedFrom b) (vec : Addr) :
    (s.loadVector vec).tracedFrom b :=
  (State.traced_setPc _).2 (State.traced_readPair h _ _)

/-- Entering a handler keeps the trace. -/
theorem State.traced_enterHandler {b : BusState B.Dev} {s : State B} (h : s.tracedFrom b) (ret : Addr) (status : Byte)
    (vec : Addr) : (s.enterHandler ret status vec).tracedFrom b :=
  State.traced_loadVector ((State.traced_setP _).2 (State.traced_push (State.traced_push (State.traced_push h _) _) _)) vec

/-- Returning from a handler keeps the trace. -/
theorem State.traced_returnFromHandler {b : BusState B.Dev} {s : State B} (h : s.tracedFrom b) :
    s.returnFromHandler.tracedFrom b :=
  (State.traced_setPc _).2 (State.traced_pull (State.traced_pull ((State.traced_setP _).2 (State.traced_pull h))))

/-! Each access class completes and keeps the trace when the operation it is given does (R162). -/

theorem registerClass_traced {b : BusState B.Dev} {s : State B} (h : s.tracedFrom b) (cost : Nat) {op : State B → State B}
    (ho : ∀ t : State B, t.tracedFrom b → (op t).tracedFrom b) :
    ∃ t, registerClass cost op s = .next t ∧ t.tracedFrom b :=
  ⟨_, rfl, (State.traced_addCycles _).2 (ho _ ((State.traced_setPc _).2 h))⟩

theorem readClass_traced {b : BusState B.Dev} {s : State B} (h : s.tracedFrom b) (m : Mode) {op : Byte → State B → State B}
    (ho : ∀ v (t : State B), t.tracedFrom b → (op v t).tracedFrom b) :
    ∃ t, readClass m op s = .next t ∧ t.tracedFrom b :=
  ⟨_, rfl, (State.traced_addCycles _).2 (ho _ _ ((State.traced_setPc _).2 (State.traced_readOperand h m)))⟩

theorem writeClass_traced {b : BusState B.Dev} {s : State B} (h : s.tracedFrom b) (m : Mode) (value : State B → Byte) :
    ∃ t, writeClass m value s = .next t ∧ t.tracedFrom b :=
  ⟨_, rfl, (State.traced_addCycles _).2 (State.traced_memWrite ((State.traced_setPc _).2 (State.traced_resolve h m)) _ _)⟩

theorem modifyClass_traced {b : BusState B.Dev} {s : State B} (h : s.tracedFrom b) (m : Mode)
    {micro : Byte → State B → Byte × State B} {after : Byte → State B → State B}
    (hm : ∀ v (t : State B), t.tracedFrom b → (micro v t).2.tracedFrom b)
    (ha : ∀ v (t : State B), t.tracedFrom b → (after v t).tracedFrom b) :
    ∃ t, modifyClass m micro after s = .next t ∧ t.tracedFrom b :=
  ⟨_, rfl, (State.traced_addCycles _).2 (ha _ _ (State.traced_memWrite
    (hm _ _ ((State.traced_setPc _).2 (State.traced_memRead (State.traced_resolve h m) _))) _ _))⟩

theorem branchClass_traced {b : BusState B.Dev} {s : State B} (h : s.tracedFrom b) (taken : Bool) (d : Byte) :
    ∃ t, branchClass taken d s = .next t ∧ t.tracedFrom b := by
  cases taken <;> exact ⟨_, rfl, h⟩

theorem gated_traced {b : BusState B.Dev} {s : State B} (h : s.tracedFrom b) (op : Byte)
    {meaning : State B → Host.Outcome (State B) Fault Refusal} (hm : ∃ t, meaning s = .next t ∧ t.tracedFrom b) :
    ∃ t, gated op meaning s = .next t ∧ t.tracedFrom b := by
  unfold gated
  split
  · exact hm
  · exact ⟨_, rfl, h⟩

/-- The fetch is traced from the bus state before it. -/
theorem State.traced_fetched (s : State B) : s.fetched.tracedFrom s.busState := by
  have h0 := State.traced_memRead (State.traced_new s) s.pc
  unfold State.fetched State.fetch
  dsimp only
  split
  · exact h0
  · exact State.traced_memRead h0 _
  · exact State.traced_memRead (State.traced_memRead h0 _) _

end Sys2Proof.Machine
end

