-- ==== Sys2Proof/Laws/HostCalls.lean ====
section
/-! SUPPORT. The host interface (R345): which calls a bus has, and the induction over schedules of calls. -/

namespace Sys2Proof.Machine

variable {B : Bus}

/-- A bus without host updates has three calls alone (R80). -/
theorem HostCall.cases_without_updates {Dev : Type} (c : HostCall Dev false) : c = .reset ∨ c = .nmi ∨ c = .step := by
  cases c with
  | reset => exact .inl rfl
  | nmi => exact .inr (.inl rfl)
  | step => exact .inr (.inr rfl)
  | busUpdate enabled _ => cases enabled

/-- An update completes in any state, Faulted ones included (R345). -/
theorem hostCall_busUpdate (s : State B) (h : B.hostUpdates = true) (b : BusState B.Dev) :
    hostCall s (.busUpdate h b) = .next (s.busUpdate b) := rfl

/-- What every host call keeps, every schedule keeps. -/
theorem runSchedule_keeps {Inv : State B → Prop} (keep : ∀ s t c, Inv s → hostCall s c = .next t → Inv t)
    {cs : List (HostCall B.Dev B.hostUpdates)} {s t : State B} (hs : Inv s) (h : runSchedule s cs = .next t) : Inv t := by
  induction cs generalizing s with
  | nil => cases h; exact hs
  | cons c cs ih =>
    simp only [runSchedule] at h
    split at h
    · next u hu => exact ih (keep s u c hs hu) h
    · cases h
    · cases h

/-- On a bus without host updates what a reset, an NMI and a step keep, every schedule keeps: no other agent changes the bus
state after the launch (R80). -/
theorem runSchedule_keeps_without_updates {Inv : State B → Prop} (none : B.hostUpdates = false)
    (keep : ∀ s t, Inv s → (resetCall s = .next t ∨ nmiCall s = .next t ∨ stepOn s = .next t) → Inv t)
    {cs : List (HostCall B.Dev B.hostUpdates)} {s t : State B} (hs : Inv s) (h : runSchedule s cs = .next t) : Inv t := by
  refine runSchedule_keeps (fun s t c hi hc => keep s t hi ?_) hs h
  cases c with
  | reset => exact .inl hc
  | nmi => exact .inr (.inl hc)
  | step => exact .inr (.inr hc)
  | busUpdate enabled _ => rw [none] at enabled; cases enabled

end Sys2Proof.Machine
end

