-- ==== Sys2Proof/Laws/Memory.lean ====
section
/-! SUPPORT. The storage: a read after a write, and the canonical form under every memory operation. -/

namespace Sys2Proof.Machine

@[simp] theorem Memory.read_nil (a : Nat) : Memory.read [] a = unlistedByte := rfl

theorem Memory.read_cons (c : Host.Cell) (m : Memory) (a : Nat) :
    Memory.read (c :: m) a = if c.1 = a then c.2 else Memory.read m a := rfl

/-- An erased address reads as unlisted, every other as before. -/
theorem Memory.read_erase (m : Memory) (a b : Nat) :
    (m.erase a).read b = if b = a then unlistedByte else m.read b := by
  induction m with
  | nil => simp [Memory.erase]
  | cons c m ih =>
    simp only [Memory.erase] at ih
    by_cases hc : c.1 = a
    · simp only [Memory.erase, List.filter, hc, ne_eq, not_true_eq_false, decide_false, ih, Memory.read_cons]
      by_cases hb : b = a
      · simp [hb]
      · simp [hb, Ne.symm hb]
    · simp only [Memory.erase, List.filter, hc, ne_eq, not_false_eq_true, decide_true, Memory.read_cons, ih]
      by_cases hb : b = a
      · subst hb; simp [hc]
      · simp [hb]

/-- Inserting at an address that is not listed sets it and nothing else. -/
theorem Memory.read_insert (m : Memory) (a b : Nat) (v : Byte) (h : ∀ c ∈ m, c.1 ≠ a) :
    (Memory.insert a v m).read b = if b = a then v else m.read b := by
  induction m with
  | nil => simp only [Memory.insert, Memory.read_cons, Memory.read_nil, eq_comm]
  | cons c m ih =>
    have hc : c.1 ≠ a := h c (by simp)
    have ih := ih (fun d hd => h d (by simp [hd]))
    by_cases hlt : a < c.1
    · simp only [Memory.insert, hlt, if_true, Memory.read_cons, eq_comm]
    · simp only [Memory.insert, hlt, if_false, Memory.read_cons, ih]
      by_cases hb : b = a
      · subst hb; simp [hc]
      · simp [hb]

/-- No cell of an erased storage stands at the erased address. -/
theorem Memory.erase_ne (m : Memory) (a : Nat) : ∀ c ∈ m.erase a, c.1 ≠ a := by
  intro c hc
  simpa using (List.mem_filter.1 hc).2

/-- R61: a byte written is read back, and no other byte changes. -/
theorem Memory.read_write (m : Memory) (a b : Nat) (v : Byte) :
    (m.write a v).read b = if b = a then v else m.read b := by
  unfold Memory.write
  by_cases hv : v = unlistedByte
  · simp only [hv, if_true, Memory.read_erase]
  · simp only [hv, if_false, Memory.read_insert _ _ _ _ (m.erase_ne a), Memory.read_erase]
    by_cases hb : b = a <;> simp [hb]

/-- A rising list is rising from any lower bound. -/
theorem Memory.risingFrom_mono {low low' : Nat} {m : Memory} (h : low' ≤ low) (hr : Memory.risingFrom low m = true) :
    Memory.risingFrom low' m = true := by
  cases m with
  | nil => rfl
  | cons c m =>
    simp only [Memory.risingFrom, Bool.and_eq_true, decide_eq_true_eq] at hr ⊢
    exact ⟨Nat.le_trans h hr.1, hr.2⟩

theorem Memory.risingFrom_erase (m : Memory) (low a : Nat) (hr : Memory.risingFrom low m = true) :
    Memory.risingFrom low (m.erase a) = true := by
  induction m generalizing low with
  | nil => rfl
  | cons c m ih =>
    simp only [Memory.risingFrom, Bool.and_eq_true, decide_eq_true_eq] at hr
    simp only [Memory.erase] at ih
    by_cases hc : c.1 = a
    · simp only [Memory.erase, List.filter, hc, ne_eq, not_true_eq_false, decide_false]
      exact ih low (Memory.risingFrom_mono (by omega) hr.2)
    · simp only [Memory.erase, List.filter, hc, ne_eq, not_false_eq_true, decide_true, Memory.risingFrom,
        Bool.and_eq_true, decide_eq_true_eq]
      exact ⟨hr.1, ih _ hr.2⟩

theorem Memory.risingFrom_insert (m : Memory) (low a : Nat) (v : Byte) (h : ∀ c ∈ m, c.1 ≠ a) (ha : low ≤ a)
    (hr : Memory.risingFrom low m = true) : Memory.risingFrom low (Memory.insert a v m) = true := by
  induction m generalizing low with
  | nil => simp [Memory.insert, Memory.risingFrom, ha]
  | cons c m ih =>
    have hc : c.1 ≠ a := h c (by simp)
    simp only [Memory.risingFrom, Bool.and_eq_true, decide_eq_true_eq] at hr
    by_cases hlt : a < c.1
    · simp only [Memory.insert, hlt, if_true, Memory.risingFrom, Bool.and_eq_true, decide_eq_true_eq]
      exact ⟨ha, by omega, hr.2⟩
    · simp only [Memory.insert, hlt, if_false, Memory.risingFrom, Bool.and_eq_true, decide_eq_true_eq]
      exact ⟨hr.1, ih _ (fun d hd => h d (by simp [hd])) (by omega) hr.2⟩

/-- A cell of an insertion is the new one or an old one. -/
theorem Memory.mem_insert (m : Memory) (a : Nat) (v : Byte) (c : Host.Cell) (hc : c ∈ Memory.insert a v m) :
    c = (a, v) ∨ c ∈ m := by
  induction m with
  | nil => simpa [Memory.insert] using hc
  | cons d m ih =>
    by_cases hlt : a < d.1
    · simpa [Memory.insert, hlt] using hc
    · simp only [Memory.insert, hlt, if_false, List.mem_cons] at hc ⊢
      rcases hc with h | h
      · exact .inr (.inl h)
      · rcases ih h with h | h
        · exact .inl h
        · exact .inr (.inr h)

/-- A write below 2^16 keeps the canonical form. -/
theorem Memory.wf_write (m : Memory) (a : Nat) (v : Byte) (ha : a < 65536) (h : m.wf = true) :
    (m.write a v).wf = true := by
  simp only [Memory.wf, Bool.and_eq_true, List.all_eq_true, decide_eq_true_eq] at h ⊢
  have he : ∀ c ∈ m.erase a, c.1 < 65536 ∧ c.2 ≠ unlistedByte := fun c hc => h.2 c (List.mem_filter.1 hc).1
  unfold Memory.write
  by_cases hv : v = unlistedByte
  · simp only [hv, if_true]
    exact ⟨Memory.risingFrom_erase _ _ _ h.1, he⟩
  · simp only [hv, if_false]
    refine ⟨Memory.risingFrom_insert _ _ _ _ (m.erase_ne a) (Nat.zero_le _) (Memory.risingFrom_erase _ _ _ h.1), ?_⟩
    intro c hc
    rcases Memory.mem_insert _ _ _ _ hc with rfl | hc
    · exact ⟨ha, hv⟩
    · exact he c hc

/-- The storage holds nothing: canonical. -/
theorem Memory.wf_nil : Memory.wf [] = true := rfl

/-- Loading bytes keeps the canonical form. -/
theorem Memory.wf_load (m : Memory) (base : Addr) (bytes : List Byte) (h : m.wf = true) :
    (m.load base bytes).wf = true := by
  induction bytes generalizing m base with
  | nil => exact h
  | cons v vs ih => exact ih _ _ (Memory.wf_write _ _ _ base.isLt h)

/-- The reading of a byte after a bus write (R61, R74). -/
theorem State.peek_memWrite (s : State) (a b : Addr) (v : Byte) :
    (s.memWrite a v).peek b = if b = a then v else s.peek b := by
  simp only [State.peek_reference, State.memWrite_mem, Memory.read_write, BitVec.toNat_inj]

/-- The reading of a byte after a push (R40). -/
theorem State.peek_push (s : State) (v : Byte) (b : Addr) :
    (s.push v).peek b = if b = stackAddr s.sp then v else s.peek b := by
  simp only [State.peek_reference, State.push_mem, Memory.read_write, BitVec.toNat_inj]

/-- A bus write keeps the canonical form. -/
theorem State.wf_memWrite (s : State) (a : Addr) (v : Byte) (h : s.mem.wf = true) : (s.memWrite a v).mem.wf = true :=
  Memory.wf_write _ _ _ a.isLt h

/-- A push keeps the canonical form. -/
theorem State.wf_push (s : State) (v : Byte) (h : s.mem.wf = true) : (s.push v).mem.wf = true :=
  Memory.wf_write _ _ _ (stackAddr s.sp).isLt h

end Sys2Proof.Machine
end

