-- ==== Sys2Proof/Laws/Ops.lean ====
section
/-! SUPPORT. One lemma for each shared operation that says everything it does, for proofs to cite instead of unfolding it. -/

namespace Sys2Proof.Machine

/-! ### Bits -/

theorem stackAddr_toNat (sp : Byte) : (stackAddr sp).toNat = 256 + sp.toNat := by
  revert sp; decide +kernel

theorem stackAddr_inj {a b : Byte} : stackAddr a = stackAddr b ↔ a = b := by
  constructor
  · intro h
    have := congrArg BitVec.toNat h
    rw [stackAddr_toNat, stackAddr_toNat] at this
    exact BitVec.eq_of_toNat_eq (by omega)
  · rintro rfl; rfl

/-- No vector byte lies in the stack page (R71). -/
theorem stackAddr_ne_vector (sp : Byte) (a : Addr) (h : 512 ≤ a.toNat) : a ≠ stackAddr sp := by
  intro he
  have := stackAddr_toNat sp
  have := sp.isLt
  rw [he] at h
  omega

theorem hiByte_wordOf (hi lo : Byte) : hiByte (wordOf hi lo) = hi := by
  apply BitVec.eq_of_toNat_eq
  simp only [hiByte, wordOf, BitVec.extractLsb'_toNat, BitVec.toNat_append, Nat.shiftLeft_eq, Nat.shiftRight_eq_div_pow]
  have := lo.isLt
  have := hi.isLt
  rw [← Nat.shiftLeft_eq, ← Nat.shiftLeft_add_eq_or_of_lt lo.isLt, Nat.shiftLeft_eq]
  omega

theorem loByte_wordOf (hi lo : Byte) : loByte (wordOf hi lo) = lo := by
  apply BitVec.eq_of_toNat_eq
  simp only [loByte, wordOf, BitVec.extractLsb'_toNat, BitVec.toNat_append, Nat.shiftRight_zero]
  have := lo.isLt
  have := hi.isLt
  rw [← Nat.shiftLeft_add_eq_or_of_lt lo.isLt, Nat.shiftLeft_eq]
  omega

theorem wordOf_bytes (w : Addr) : wordOf (hiByte w) (loByte w) = w := by
  apply BitVec.eq_of_toNat_eq
  simp only [hiByte, loByte, wordOf, BitVec.extractLsb'_toNat, BitVec.toNat_append, Nat.shiftRight_zero]
  rw [← Nat.shiftLeft_add_eq_or_of_lt (Nat.mod_lt _ (by decide)), Nat.shiftLeft_eq, Nat.shiftRight_eq_div_pow]
  have := w.isLt
  omega

/-! ### Words and vectors (R65, R75) -/

/-- Two reads, the low byte's first. -/
theorem State.readPair_spec (s : State) (lo hi : Addr) :
    s.readPair lo hi = (wordOf (s.peek hi) (s.peek lo),
      { s with bus := s.bus ++ [.read lo (s.peek lo)] ++ [.read hi (s.peek hi)] }) := rfl

/-- PC from a vector's two bytes; nothing else but the two reads. -/
theorem State.loadVector_spec (s : State) (vec : Addr) :
    s.loadVector vec = { s with
      pc := wordOf (s.peek (vec + 1)) (s.peek vec)
      bus := s.bus ++ [.read vec (s.peek vec)] ++ [.read (vec + 1) (s.peek (vec + 1))] } := rfl

/-! ### Operands (R104–R116) -/

/-- Without P_CYCLE_PENALTIES no read pays. -/
theorem State.readPenalty_off {s : State} (h : s.par.cyclePenalties = false) (m : Mode) : s.readPenalty m = 0 := by
  simp [State.readPenalty, h]

/-- An immediate operand pays no penalty. -/
theorem State.readPenalty_imm (s : State) (v : Byte) : s.readPenalty (.imm v) = 0 := by
  simp [State.readPenalty, State.crossesPage, State.indexBase]

/-- Resolving a mode changes the bus transactions alone. -/
theorem State.resolve_state (s : State) (m : Mode) : (s.resolve m).2 = { s with bus := (s.resolve m).2.bus } := by
  cases m <;> rfl

/-- Reading an operand changes the bus transactions alone. -/
theorem State.readOperand_state (s : State) (m : Mode) :
    (s.readOperand m).2 = { s with bus := (s.readOperand m).2.bus } := by
  cases m <;> rfl

/-- The operand is the byte at the effective address, or the immediate byte (R105, R162). -/
theorem State.readOperand_value (s : State) (m : Mode) :
    (s.readOperand m).1 = match m with | .imm v => v | m => s.peek (s.resolve m).1 := by
  cases m <;> rfl

/-- The stack slot's byte and SP + 1 (R41). -/
theorem State.pull16_spec (s : State) :
    s.pull16 = (wordOf (s.peek (stackAddr (s.sp + 1 + 1))) (s.peek (stackAddr (s.sp + 1))), s.pull.2.pull.2) := rfl

/-! ### The access classes (R162) -/

/-- A Register-only instruction completes: PC past it, its operation, its cost. -/
theorem registerClass_next (cost : Nat) (op : State → State) (s : State) :
    registerClass cost op s = .next ((op { s with pc := s.pc + 1 }).addCycles cost) := rfl

/-- A Read-class instruction completes: its operation is given the operand and the state after the reads, PC past it. -/
theorem readClass_next (m : Mode) (op : Byte → State → State) (s : State) :
    readClass m op s = .next ((op (s.readOperand m).1
      { s with pc := s.pc + BitVec.ofNat 16 m.len, bus := (s.readOperand m).2.bus }).addCycles
        (readCost m + s.readPenalty m)) := by
  simp only [readClass, State.pcn]
  rw [State.readOperand_state]
  rfl

/-- A Write-class instruction completes: one byte stored at EA. -/
theorem writeClass_next (m : Mode) (value : State → Byte) (s : State) :
    writeClass m value s = .next
      ((({ s with pc := s.pc + BitVec.ofNat 16 m.len, bus := (s.resolve m).2.bus } : State).memWrite (s.resolve m).1
        (value { s with pc := s.pc + BitVec.ofNat 16 m.len, bus := (s.resolve m).2.bus })).addCycles (writeCost m)) := by
  simp only [writeClass, State.pcn]
  rw [State.resolve_state]
  rfl

/-- A Read-modify-write instruction completes: `micro` on the byte at EA, its result stored there, then `after`. -/
theorem modifyClass_next (m : Mode) (micro : Byte → State → Byte × State) (after : Byte → State → State) (s : State) :
    modifyClass m micro after s =
      (let v := s.peek (s.resolve m).1
       let u := micro v { s with
         pc := s.pc + BitVec.ofNat 16 m.len, bus := (s.resolve m).2.bus ++ [.read (s.resolve m).1 v] }
       .next ((after u.1 (u.2.memWrite (s.resolve m).1 u.1)).addCycles (modifyCost m))) := by
  simp only [modifyClass, State.pcn]
  rw [State.resolve_state]
  rfl

/-- A branch completes: PC is the target or pcn (R250). -/
theorem branchClass_next (taken : Bool) (d : Byte) (s : State) :
    branchClass taken d s = .next (if taken
      then (s.setPc (branchTarget s.pc d)).addCycles (2 + branchPenalty s.par (s.pc + 2) (branchTarget s.pc d))
      else (s.setPc (s.pc + 2)).addCycles 2) := by
  cases taken <;> rfl

/-- A gated instruction with the gate open and shut (R310). -/
theorem gated_next (op : Byte) (meaning : State → Host.Outcome State Fault Refusal) (s : State) :
    gated op meaning s = if s.par.extraUnofficial then meaning s else .next (s.raiseUnimplemented op) := rfl

/-! ### Handlers (R290, R291, R342) -/

/-- Entering a handler: three pushes, I set, PC from the vector. -/
theorem State.enterHandler_spec (s : State) (ret : Addr) (status : Byte) (vec : Addr) :
    s.enterHandler ret status vec =
      (let t := ((s.push (hiByte ret)).push (loByte ret)).push status
       { t with
         p := { s.p with i := true }
         pc := wordOf (t.peek (vec + 1)) (t.peek vec)
         bus := t.bus ++ [.read vec (t.peek vec)] ++ [.read (vec + 1) (t.peek (vec + 1))] }) := rfl

/-- Returning from a handler: the status, then the return address, from the three slots above SP. -/
theorem State.returnFromHandler_spec (s : State) :
    s.returnFromHandler = { s with
      p := unpackPulled (s.peek (stackAddr (s.sp + 1)))
      pc := wordOf (s.peek (stackAddr (s.sp + 1 + 1 + 1))) (s.peek (stackAddr (s.sp + 1 + 1)))
      sp := s.sp + 1 + 1 + 1
      bus := s.bus ++ [.read (stackAddr (s.sp + 1)) (s.peek (stackAddr (s.sp + 1)))]
        ++ [.read (stackAddr (s.sp + 1 + 1)) (s.peek (stackAddr (s.sp + 1 + 1)))]
        ++ [.read (stackAddr (s.sp + 1 + 1 + 1)) (s.peek (stackAddr (s.sp + 1 + 1 + 1)))] } := by
  apply State.ext <;> simp [State.returnFromHandler, State.pull16_spec]

/-- The status byte and back (R34). -/
theorem unpack_pack (p : Flags) : unpack (pack p) = p := by
  obtain ⟨n, v, b, d, i, z, c⟩ := p
  cases n <;> cases v <;> cases b <;> cases d <;> cases i <;> cases z <;> cases c <;> rfl

/-! ### The fetch -/

/-- On the reference bus the fetch changes the bus transactions alone. -/
theorem State.fetched_state (s : State) : s.fetched = { s with bus := s.fetched.bus } := by
  unfold State.fetched State.fetch
  dsimp only
  split <;> rfl

end Sys2Proof.Machine
end

