-- ==== Sys2Proof/Laws/PerInstr.lean ====
section
/-! SUPPORT. The family EncodeLength: an instruction's encoding is as long as the instruction (R102), one lemma
for each constructor. -/

namespace Sys2Proof.Laws

/-- An operand has one byte less than its instruction. -/
theorem mode_bytes_length (m : Mode) : m.bytes.length + 1 = m.len := by cases m <;> rfl

/-- The encoding of an instruction has the instruction's length. -/
def EncodeLength.Statement (i : Instr) : Prop := (encode i).length = i.len

theorem EncodeLength.lda (m : Mode) : EncodeLength.Statement (.lda m) := mode_bytes_length m
theorem EncodeLength.ldx (m : Mode) : EncodeLength.Statement (.ldx m) := mode_bytes_length m
theorem EncodeLength.ldy (m : Mode) : EncodeLength.Statement (.ldy m) := mode_bytes_length m
theorem EncodeLength.sta (m : Mode) : EncodeLength.Statement (.sta m) := mode_bytes_length m
theorem EncodeLength.stx (m : Mode) : EncodeLength.Statement (.stx m) := mode_bytes_length m
theorem EncodeLength.sty (m : Mode) : EncodeLength.Statement (.sty m) := mode_bytes_length m
theorem EncodeLength.tax : EncodeLength.Statement .tax := rfl
theorem EncodeLength.tay : EncodeLength.Statement .tay := rfl
theorem EncodeLength.txa : EncodeLength.Statement .txa := rfl
theorem EncodeLength.tya : EncodeLength.Statement .tya := rfl
theorem EncodeLength.tsx : EncodeLength.Statement .tsx := rfl
theorem EncodeLength.txs : EncodeLength.Statement .txs := rfl
theorem EncodeLength.adc (m : Mode) : EncodeLength.Statement (.adc m) := mode_bytes_length m
theorem EncodeLength.sbc (m : Mode) : EncodeLength.Statement (.sbc m) := mode_bytes_length m
theorem EncodeLength.and (m : Mode) : EncodeLength.Statement (.and m) := mode_bytes_length m
theorem EncodeLength.ora (m : Mode) : EncodeLength.Statement (.ora m) := mode_bytes_length m
theorem EncodeLength.eor (m : Mode) : EncodeLength.Statement (.eor m) := mode_bytes_length m
theorem EncodeLength.bit (m : Mode) : EncodeLength.Statement (.bit m) := mode_bytes_length m
theorem EncodeLength.cmp (m : Mode) : EncodeLength.Statement (.cmp m) := mode_bytes_length m
theorem EncodeLength.cpx (m : Mode) : EncodeLength.Statement (.cpx m) := mode_bytes_length m
theorem EncodeLength.cpy (m : Mode) : EncodeLength.Statement (.cpy m) := mode_bytes_length m
theorem EncodeLength.inc (m : Mode) : EncodeLength.Statement (.inc m) := mode_bytes_length m
theorem EncodeLength.dec (m : Mode) : EncodeLength.Statement (.dec m) := mode_bytes_length m
theorem EncodeLength.inx : EncodeLength.Statement .inx := rfl
theorem EncodeLength.iny : EncodeLength.Statement .iny := rfl
theorem EncodeLength.dex : EncodeLength.Statement .dex := rfl
theorem EncodeLength.dey : EncodeLength.Statement .dey := rfl
theorem EncodeLength.aslA : EncodeLength.Statement .aslA := rfl
theorem EncodeLength.lsrA : EncodeLength.Statement .lsrA := rfl
theorem EncodeLength.rolA : EncodeLength.Statement .rolA := rfl
theorem EncodeLength.rorA : EncodeLength.Statement .rorA := rfl
theorem EncodeLength.asl (m : Mode) : EncodeLength.Statement (.asl m) := mode_bytes_length m
theorem EncodeLength.lsr (m : Mode) : EncodeLength.Statement (.lsr m) := mode_bytes_length m
theorem EncodeLength.rol (m : Mode) : EncodeLength.Statement (.rol m) := mode_bytes_length m
theorem EncodeLength.ror (m : Mode) : EncodeLength.Statement (.ror m) := mode_bytes_length m
theorem EncodeLength.bpl (d : Byte) : EncodeLength.Statement (.bpl d) := rfl
theorem EncodeLength.bmi (d : Byte) : EncodeLength.Statement (.bmi d) := rfl
theorem EncodeLength.bvc (d : Byte) : EncodeLength.Statement (.bvc d) := rfl
theorem EncodeLength.bvs (d : Byte) : EncodeLength.Statement (.bvs d) := rfl
theorem EncodeLength.bcc (d : Byte) : EncodeLength.Statement (.bcc d) := rfl
theorem EncodeLength.bcs (d : Byte) : EncodeLength.Statement (.bcs d) := rfl
theorem EncodeLength.bne (d : Byte) : EncodeLength.Statement (.bne d) := rfl
theorem EncodeLength.beq (d : Byte) : EncodeLength.Statement (.beq d) := rfl
theorem EncodeLength.jmp (w : Addr) : EncodeLength.Statement (.jmp w) := rfl
theorem EncodeLength.jmpInd (w : Addr) : EncodeLength.Statement (.jmpInd w) := rfl
theorem EncodeLength.jsr (w : Addr) : EncodeLength.Statement (.jsr w) := rfl
theorem EncodeLength.rts : EncodeLength.Statement .rts := rfl
theorem EncodeLength.pha : EncodeLength.Statement .pha := rfl
theorem EncodeLength.pla : EncodeLength.Statement .pla := rfl
theorem EncodeLength.php : EncodeLength.Statement .php := rfl
theorem EncodeLength.plp : EncodeLength.Statement .plp := rfl
theorem EncodeLength.clc : EncodeLength.Statement .clc := rfl
theorem EncodeLength.sec : EncodeLength.Statement .sec := rfl
theorem EncodeLength.cli : EncodeLength.Statement .cli := rfl
theorem EncodeLength.sei : EncodeLength.Statement .sei := rfl
theorem EncodeLength.cld : EncodeLength.Statement .cld := rfl
theorem EncodeLength.sed : EncodeLength.Statement .sed := rfl
theorem EncodeLength.clv : EncodeLength.Statement .clv := rfl
theorem EncodeLength.nop : EncodeLength.Statement .nop := rfl
theorem EncodeLength.brk : EncodeLength.Statement .brk := rfl
theorem EncodeLength.rti : EncodeLength.Statement .rti := rfl
theorem EncodeLength.slo (m : Mode) : EncodeLength.Statement (.slo m) := mode_bytes_length m
theorem EncodeLength.rla (m : Mode) : EncodeLength.Statement (.rla m) := mode_bytes_length m
theorem EncodeLength.sre (m : Mode) : EncodeLength.Statement (.sre m) := mode_bytes_length m
theorem EncodeLength.rra (m : Mode) : EncodeLength.Statement (.rra m) := mode_bytes_length m
theorem EncodeLength.dcp (m : Mode) : EncodeLength.Statement (.dcp m) := mode_bytes_length m
theorem EncodeLength.isc (m : Mode) : EncodeLength.Statement (.isc m) := mode_bytes_length m
theorem EncodeLength.lax (m : Mode) : EncodeLength.Statement (.lax m) := mode_bytes_length m
theorem EncodeLength.sax (m : Mode) : EncodeLength.Statement (.sax m) := mode_bytes_length m
theorem EncodeLength.nopImp (op : Byte) : EncodeLength.Statement (.nopImp op) := rfl
theorem EncodeLength.nopImm (op : Byte) (v : Byte) : EncodeLength.Statement (.nopImm op v) := rfl
theorem EncodeLength.nopZp (op : Byte) (b : Byte) : EncodeLength.Statement (.nopZp op b) := rfl
theorem EncodeLength.nopZpx (op : Byte) (b : Byte) : EncodeLength.Statement (.nopZpx op b) := rfl
theorem EncodeLength.nopAbs (w : Addr) : EncodeLength.Statement (.nopAbs w) := rfl
theorem EncodeLength.nopAbsx (op : Byte) (w : Addr) : EncodeLength.Statement (.nopAbsx op w) := rfl
theorem EncodeLength.sbcEB (v : Byte) : EncodeLength.Statement (.sbcEB v) := rfl
theorem EncodeLength.unimplemented (op : Byte) : EncodeLength.Statement (.unimplemented op) := rfl

end Sys2Proof.Laws
end

