-- ==== Sys2Proof/Tests/Slice0.lean ====
section
/-! SUPPORT. The model's own tests. Every expected result is a line of 95_test_vectors.md, a rule's example, or hand
calculation from a rule; each test says which. The last part shows, for each obligation with hypotheses, a state and
operands that meet them. -/

namespace Sys2Proof.Tests

open Sys2Proof.Machine Sys2Proof.Claims

-- One test at a time: each waits for the kernel, and too many waiting at once exhaust the threads' stacks.
set_option Elab.async false

/-! ### Helpers -/

/-- The default start of 95_test_vectors.md: A = X = Y = 0, SP = $FD, P = $24, PC = $8000, the parameters R8 decides. -/
def start : State := State.powerOn Config.params { Config.powerOn with pc := 0x8000 } []

/-- The same with P_EXTRA_UNOFFICIAL true. -/
def opened : State := { start with par := { Config.params with extraUnofficial := true } }

/-- The same with P_CYCLE_PENALTIES true. -/
def penal : State := { start with par := { Config.params with cyclePenalties := true } }

/-- Bytes set at given addresses. -/
def put (s : State) (cells : List (Addr × Byte)) : State :=
  { s with mem := cells.foldl (fun m c => m.write c.1.toNat c.2) s.mem }

/-- An instruction's bytes set at PC. -/
def code (s : State) (bytes : List Byte) : State := s.placeAtPc bytes

/-- The outcome is a next state with A, X, Y, SP, the packed P and PC as listed, Running, and these bytes in memory. -/
def ends (o : Host.Outcome State Fault Refusal) (a x y sp p : Byte) (pc : Addr) (cells : List (Addr × Byte)) : Bool :=
  match o with
  | .next t => t.a == a && t.x == x && t.y == y && t.sp == sp && pack t.p == p && t.pc == pc && t.run == .running &&
      cells.all fun c => t.peek c.1 == c.2
  | .fault _ => false
  | .refused _ => false

/-- The outcome is the unimplemented-opcode fault's next state, with nothing else changed but the opcode read. -/
def faults (o : Host.Outcome State Fault Refusal) (s : State) (op : Byte) : Bool :=
  match o with
  | .next t => t == { s with run := .faulted op s.pc, bus := [.read s.pc op] }
  | .fault _ => false
  | .refused _ => false

/-- The addresses of the outcome's bus transactions in order, and whether each is a write. -/
def order (o : Host.Outcome State Fault Refusal) : List (Bool × Addr) :=
  match o with
  | .next t => t.bus.map fun | .read a _ => (false, a) | .write a _ => (true, a)
  | .fault _ => []
  | .refused _ => []

/-- The cycles an outcome has added to a counter at 0. -/
def cycles (o : Host.Outcome State Fault Refusal) : Option Cycles :=
  match o with
  | .next t => some t.cyc
  | .fault _ => none
  | .refused _ => none

/-! ### WellFormed: an ill-formed term for each check -/

theorem test_wf_full : (Instr.lda (.zpy 0x10)).wellFormed = false ∧ (Instr.lda (.zpx 0x10)).wellFormed = true := by decide
theorem test_wf_no_imm : (Instr.sta (.imm 0x05)).wellFormed = false ∧ (Instr.slo (.imm 0x05)).wellFormed = false ∧
    (Instr.isc (.absy 0x1234)).wellFormed = true := by decide
theorem test_wf_modify : (Instr.asl (.absy 0x1234)).wellFormed = false ∧ (Instr.inc (.izx 0x10)).wellFormed = false ∧
    (Instr.ror (.absx 0x1234)).wellFormed = true := by decide
theorem test_wf_ldx : (Instr.ldx (.zpx 0x10)).wellFormed = false ∧ (Instr.ldx (.absy 0x1234)).wellFormed = true := by decide
theorem test_wf_ldy : (Instr.ldy (.zpy 0x10)).wellFormed = false ∧ (Instr.ldy (.absx 0x1234)).wellFormed = true := by decide
theorem test_wf_stx : (Instr.stx (.zpx 0x10)).wellFormed = false ∧ (Instr.stx (.zpy 0x10)).wellFormed = true := by decide
theorem test_wf_sty : (Instr.sty (.absx 0x1234)).wellFormed = false ∧ (Instr.sty (.zpx 0x10)).wellFormed = true := by decide
theorem test_wf_bit : (Instr.bit (.imm 0x10)).wellFormed = false ∧ (Instr.bit (.abs 0x1234)).wellFormed = true := by decide
theorem test_wf_compare : (Instr.cpx (.zpx 0x10)).wellFormed = false ∧ (Instr.cpy (.imm 0x10)).wellFormed = true := by decide
theorem test_wf_lax : (Instr.lax (.imm 0x10)).wellFormed = false ∧ (Instr.lax (.zpy 0x10)).wellFormed = true := by decide
theorem test_wf_sax : (Instr.sax (.absy 0x1234)).wellFormed = false ∧ (Instr.sax (.izx 0x10)).wellFormed = true := by decide
theorem test_wf_nop_imp : (Instr.nopImp 0xEA).wellFormed = false ∧ (Instr.nopImp 0x1A).wellFormed = true := by decide
theorem test_wf_nop_imm : (Instr.nopImm 0xA9 0x01).wellFormed = false ∧ (Instr.nopImm 0x80 0x01).wellFormed = true := by decide
theorem test_wf_nop_zp : (Instr.nopZp 0x24 0x10).wellFormed = false ∧ (Instr.nopZp 0x44 0x10).wellFormed = true := by decide
theorem test_wf_nop_zpx : (Instr.nopZpx 0x94 0x10).wellFormed = false ∧ (Instr.nopZpx 0xF4 0x10).wellFormed = true := by decide
theorem test_wf_nop_absx : (Instr.nopAbsx 0x9C 0x1234).wellFormed = false ∧ (Instr.nopAbsx 0x1C 0x1234).wellFormed = true := by
  decide
theorem test_wf_unimplemented : (Instr.unimplemented 0xEA).wellFormed = false ∧ (Instr.unimplemented 0xBB).wellFormed = true := by
  decide

/-! ### Decode: words written out bit by bit from the encodings of R121, R122, R123 and R131 -/

theorem test_decode_load : decode [0b10111101, 0b00110100, 0b00010010] = .ok (.lda (.absx 0x1234), []) := by rfl
theorem test_decode_store : decode [0b10010110, 0b11111111] = .ok (.stx (.zpy 0xFF), []) := by rfl
theorem test_decode_transfer : decode [0b10011010, 0x55] = .ok (.txs, [0x55]) := by rfl
theorem test_decode_arith : decode [0b01111001, 0x34, 0x12] = .ok (.adc (.absy 0x1234), []) := by rfl
theorem test_decode_logic : decode [0b00101100, 0x00, 0x02] = .ok (.bit (.abs 0x0200), []) := by rfl
theorem test_decode_compare : decode [0b11010001, 0x20] = .ok (.cmp (.izy 0x20), []) := by rfl
theorem test_decode_modify : decode [0b11011110, 0x34, 0x12] = .ok (.dec (.absx 0x1234), []) := by rfl
theorem test_decode_shift : decode [0b01101010] = .ok (.rorA, []) ∧ decode [0b00110110, 0x0F] = .ok (.rol (.zpx 0x0F), []) :=
  ⟨rfl, rfl⟩
theorem test_decode_branch : decode [0b11010000, 0xFE] = .ok (.bne 0xFE, []) := by rfl
theorem test_decode_jump : decode [0b01101100, 0xFF, 0x10] = .ok (.jmpInd 0x10FF, []) ∧
    decode [0b00100000, 0x00, 0x90] = .ok (.jsr 0x9000, []) := ⟨rfl, rfl⟩
theorem test_decode_stack : decode [0b00101000] = .ok (.plp, []) := by rfl
theorem test_decode_flag : decode [0b10111000] = .ok (.clv, []) := by rfl
theorem test_decode_system : decode [0b00000000, 0xFF] = .ok (.brk, [0xFF]) ∧ decode [0b01000000] = .ok (.rti, []) := ⟨rfl, rfl⟩
theorem test_decode_unofficial : decode [0b11110011, 0x20] = .ok (.isc (.izy 0x20), []) ∧
    decode [0b10010111, 0xF0] = .ok (.sax (.zpy 0xF0), []) := ⟨rfl, rfl⟩
theorem test_decode_gated : decode [0b11101011, 0x01] = .ok (.sbcEB 0x01, []) ∧
    decode [0b01111100, 0xFF, 0x20] = .ok (.nopAbsx 0x7C 0x20FF, []) := ⟨rfl, rfl⟩
theorem test_decode_absent : decode [0b00000010, 0x77] = .ok (.unimplemented 0x02, [0x77]) := by rfl
theorem test_decode_too_short : decode [] = .error .empty ∧ decode [0xAD, 0x34] = .error (.truncated 0xAD) := ⟨rfl, rfl⟩
theorem test_table_word : decodeTableWord 24 0x1234BD = some (.lda (.absx 0x1234)) ∧ decodeTableWord 8 0x4C = some (.jmp 0) :=
  ⟨rfl, rfl⟩

/-! ### One step of each instruction (the lines of 95_test_vectors.md, §2) -/

/-- SLO zp (47_unofficial.md rule R301). -/
theorem test_slo_zp :
    ends (step (code (put { start with a := 0x00 } [(0x0010, 0x81)]) [0x07, 0x10]))
      0x02 0x00 0x00 0xFD 0x25 0x8002 [(0x0010, 0x02)] = true := by
  decide +kernel
/-- zp,Y wraps (R107). -/
theorem test_zp_y_wraps :
    ends (step (code (put { start with y := 0x02 } [(0x0001, 0x66)]) [0xB6, 0xFF]))
      0x00 0x66 0x02 0xFD 0x24 0x8002 [] = true := by
  decide +kernel
/-- (zp),Y pointer at $FF takes its high byte from $00 (R115). -/
theorem test_izy_pointer_at_ff_takes_its_high_byte_from_00 :
    ends (step (code (put { start with y := 0x10 } [(0x00FF, 0x00), (0x0000, 0x20), (0x2010, 0xAB)]) [0xB1, 0xFF]))
      0xAB 0x00 0x10 0xFD 0xA4 0x8002 [] = true := by
  decide +kernel
/-- instruction straddling $FFFF (R36). -/
theorem test_instruction_straddling_ffff :
    ends (step (code (put { start with pc := 0xFFFE } [(0x0000, 0x02), (0x0200, 0x3C)]) [0xAD, 0x00]))
      0x3C 0x00 0x00 0xFD 0x24 0x0001 [] = true := by
  decide +kernel
/-- LDX zp (R181). -/
theorem test_ldx_zp :
    ends (step (code (put start [(0x0010, 0x7F)]) [0xA6, 0x10]))
      0x00 0x7F 0x00 0xFD 0x24 0x8002 [] = true := by
  decide +kernel
/-- LDY abs,X (R182). -/
theorem test_ldy_abs_x :
    ends (step (code (put { start with x := 0x05 } [(0x0205, 0xFE)]) [0xBC, 0x00, 0x02]))
      0x00 0x05 0xFE 0xFD 0xA4 0x8003 [] = true := by
  decide +kernel
/-- STA abs does not touch flags (R183). -/
theorem test_sta_abs_does_not_touch_flags :
    ends (step (code { start with a := 0x00, p := unpack 0xA5 } [0x8D, 0x00, 0x03]))
      0x00 0x00 0x00 0xFD 0xA5 0x8003 [] = true := by
  decide +kernel
/-- STA (zp),Y (R183). -/
theorem test_sta_izy :
    ends (step (code (put { start with a := 0x42, y := 0x03 } [(0x0020, 0x00), (0x0021, 0x04)]) [0x91, 0x20]))
      0x42 0x00 0x03 0xFD 0x24 0x8002 [(0x0403, 0x42)] = true := by
  decide +kernel
/-- STX zp,Y wraps (R184). -/
theorem test_stx_zp_y_wraps :
    ends (step (code { start with x := 0xFF, y := 0x02 } [0x96, 0xFF]))
      0x00 0xFF 0x02 0xFD 0x24 0x8002 [(0x0001, 0xFF)] = true := by
  decide +kernel
/-- STY zp,X (R185). -/
theorem test_sty_zp_x :
    ends (step (code { start with y := 0x11, x := 0x90 } [0x94, 0x80]))
      0x00 0x90 0x11 0xFD 0x24 0x8002 [(0x0010, 0x11)] = true := by
  decide +kernel
/-- TAX Z (R186). -/
theorem test_tax_z :
    ends (step (code { start with a := 0x00, x := 0x33 } [0xAA]))
      0x00 0x00 0x00 0xFD 0x26 0x8001 [] = true := by
  decide +kernel
/-- TAY N (R187). -/
theorem test_tay_n :
    ends (step (code { start with a := 0x90 } [0xA8]))
      0x90 0x00 0x90 0xFD 0xA4 0x8001 [] = true := by
  decide +kernel
/-- TXA (R188). -/
theorem test_txa :
    ends (step (code { start with x := 0x01, a := 0x80 } [0x8A]))
      0x01 0x01 0x00 0xFD 0x24 0x8001 [] = true := by
  decide +kernel
/-- TYA (R189). -/
theorem test_tya :
    ends (step (code { start with y := 0xFF } [0x98]))
      0xFF 0x00 0xFF 0xFD 0xA4 0x8001 [] = true := by
  decide +kernel
/-- TSX sets N from SP (R190). -/
theorem test_tsx_sets_n_from_sp :
    ends (step (code { start with sp := 0xFD } [0xBA]))
      0x00 0xFD 0x00 0xFD 0xA4 0x8001 [] = true := by
  decide +kernel
/-- TXS sets no flag (R191). -/
theorem test_txs_sets_no_flag :
    ends (step (code { start with x := 0x00, p := unpack 0x24 } [0x9A]))
      0x00 0x00 0x00 0x00 0x24 0x8001 [] = true := by
  decide +kernel
/-- ADC 00+FF+C: stage-2 carry (R154). -/
theorem test_adc_00_ff_c_stage_2_carry :
    ends (step (code { start with a := 0x00, p := unpack 0x25 } [0x69, 0xFF]))
      0x00 0x00 0x00 0xFD 0x27 0x8002 [] = true := by
  decide +kernel
/-- ADC ignores D (R200, D8). -/
theorem test_adc_ignores_d :
    ends (step (code { start with a := 0x09, p := unpack 0x2C } [0x69, 0x01]))
      0x0A 0x00 0x00 0xFD 0x2C 0x8002 [] = true := by
  decide +kernel
/-- SBC 05-03, C=0 borrow-in (R201). -/
theorem test_sbc_05_03_c_0_borrow_in :
    ends (step (code { start with a := 0x05, p := unpack 0x24 } [0xE9, 0x03]))
      0x01 0x00 0x00 0xFD 0x25 0x8002 [] = true := by
  decide +kernel
/-- SBC 00-01 borrow (R201). -/
theorem test_sbc_00_01_borrow :
    ends (step (code { start with a := 0x00, p := unpack 0x25 } [0xE9, 0x01]))
      0xFF 0x00 0x00 0xFD 0xA4 0x8002 [] = true := by
  decide +kernel
/-- AND (R202). -/
theorem test_and :
    ends (step (code { start with a := 0xF0 } [0x29, 0x0F]))
      0x00 0x00 0x00 0xFD 0x26 0x8002 [] = true := by
  decide +kernel
/-- ORA (R203). -/
theorem test_ora :
    ends (step (code { start with a := 0x01 } [0x09, 0x80]))
      0x81 0x00 0x00 0xFD 0xA4 0x8002 [] = true := by
  decide +kernel
/-- EOR self-cancel (R204). -/
theorem test_eor_self_cancel :
    ends (step (code { start with a := 0xFF } [0x49, 0xFF]))
      0x00 0x00 0x00 0xFD 0x26 0x8002 [] = true := by
  decide +kernel
/-- BIT: N,V from M, Z from A&M (R205). -/
theorem test_bit_n_v_from_m_z_from_a_m :
    ends (step (code (put { start with a := 0x01 } [(0x0010, 0xC0)]) [0x24, 0x10]))
      0x01 0x00 0x00 0xFD 0xE6 0x8002 [] = true := by
  decide +kernel
/-- BIT: Z clear, N,V clear (R205). -/
theorem test_bit_z_clear_n_v_clear :
    ends (step (code (put { start with a := 0x3F, p := unpack 0xE4 } [(0x0200, 0x3F)]) [0x2C, 0x00, 0x02]))
      0x3F 0x00 0x00 0xFD 0x24 0x8003 [] = true := by
  decide +kernel
/-- CMP less: C=0, N from difference (R206). -/
theorem test_cmp_less_c_0_n_from_difference :
    ends (step (code { start with a := 0x40 } [0xC9, 0x41]))
      0x40 0x00 0x00 0xFD 0xA4 0x8002 [] = true := by
  decide +kernel
/-- CMP keeps V (R206). -/
theorem test_cmp_keeps_v :
    ends (step (code { start with a := 0x00, p := unpack 0x64 } [0xC9, 0x00]))
      0x00 0x00 0x00 0xFD 0x67 0x8002 [] = true := by
  decide +kernel
/-- CPX (R207). -/
theorem test_cpx :
    ends (step (code { start with x := 0x20 } [0xE0, 0x10]))
      0x00 0x20 0x00 0xFD 0x25 0x8002 [] = true := by
  decide +kernel
/-- CPY (R208). -/
theorem test_cpy :
    ends (step (code { start with y := 0x10 } [0xC0, 0x90]))
      0x00 0x00 0x10 0xFD 0xA4 0x8002 [] = true := by
  decide +kernel
/-- INC wraps to 0 (R209). -/
theorem test_inc_wraps_to_0 :
    ends (step (code (put start [(0x0010, 0xFF)]) [0xE6, 0x10]))
      0x00 0x00 0x00 0xFD 0x26 0x8002 [(0x0010, 0x00)] = true := by
  decide +kernel
/-- DEC wraps to FF (R210). -/
theorem test_dec_wraps_to_ff :
    ends (step (code (put start [(0x0300, 0x00)]) [0xCE, 0x00, 0x03]))
      0x00 0x00 0x00 0xFD 0xA4 0x8003 [(0x0300, 0xFF)] = true := by
  decide +kernel
/-- INX wraps (R211). -/
theorem test_inx_wraps :
    ends (step (code { start with x := 0xFF, p := unpack 0x25 } [0xE8]))
      0x00 0x00 0x00 0xFD 0x27 0x8001 [] = true := by
  decide +kernel
/-- INY (R212). -/
theorem test_iny :
    ends (step (code { start with y := 0x7F } [0xC8]))
      0x00 0x00 0x80 0xFD 0xA4 0x8001 [] = true := by
  decide +kernel
/-- DEX (R213). -/
theorem test_dex :
    ends (step (code { start with x := 0x00 } [0xCA]))
      0x00 0xFF 0x00 0xFD 0xA4 0x8001 [] = true := by
  decide +kernel
/-- DEY (R214). -/
theorem test_dey :
    ends (step (code { start with y := 0x01 } [0x88]))
      0x00 0x00 0x00 0xFD 0x26 0x8001 [] = true := by
  decide +kernel
/-- ASL A: bit 7 to C, Z (R230). -/
theorem test_asl_a_bit_7_to_c_z :
    ends (step (code { start with a := 0x80 } [0x0A]))
      0x00 0x00 0x00 0xFD 0x27 0x8001 [] = true := by
  decide +kernel
/-- ASL A: N (R230). -/
theorem test_asl_a_n :
    ends (step (code { start with a := 0x40, p := unpack 0x25 } [0x0A]))
      0x80 0x00 0x00 0xFD 0xA4 0x8001 [] = true := by
  decide +kernel
/-- ASL zp (R231). -/
theorem test_asl_zp :
    ends (step (code (put start [(0x0010, 0x81)]) [0x06, 0x10]))
      0x00 0x00 0x00 0xFD 0x25 0x8002 [(0x0010, 0x02)] = true := by
  decide +kernel
/-- LSR A: bit 0 to C, Z (R232). -/
theorem test_lsr_a_bit_0_to_c_z :
    ends (step (code { start with a := 0x01 } [0x4A]))
      0x00 0x00 0x00 0xFD 0x27 0x8001 [] = true := by
  decide +kernel
/-- LSR abs clears N (R233). -/
theorem test_lsr_abs_clears_n :
    ends (step (code (put { start with p := unpack 0xA4 } [(0x0200, 0xFF)]) [0x4E, 0x00, 0x02]))
      0x00 0x00 0x00 0xFD 0x25 0x8003 [(0x0200, 0x7F)] = true := by
  decide +kernel
/-- ROL A carry-in (R234). -/
theorem test_rol_a_carry_in :
    ends (step (code { start with a := 0x80, p := unpack 0x24 } [0x2A]))
      0x00 0x00 0x00 0xFD 0x27 0x8001 [] = true := by
  decide +kernel
/-- ROL A carry-in 1 (R234). -/
theorem test_rol_a_carry_in_1 :
    ends (step (code { start with a := 0x40, p := unpack 0x25 } [0x2A]))
      0x81 0x00 0x00 0xFD 0xA4 0x8001 [] = true := by
  decide +kernel
/-- ROL zp,X (R235). -/
theorem test_rol_zp_x :
    ends (step (code (put { start with x := 0x01 } [(0x0010, 0xFF)]) [0x36, 0x0F]))
      0x00 0x01 0x00 0xFD 0xA5 0x8002 [(0x0010, 0xFE)] = true := by
  decide +kernel
/-- ROR A carry into bit 7 (R236). -/
theorem test_ror_a_carry_into_bit_7 :
    ends (step (code { start with a := 0x01, p := unpack 0x25 } [0x6A]))
      0x80 0x00 0x00 0xFD 0xA5 0x8001 [] = true := by
  decide +kernel
/-- ROR A to zero (R236). -/
theorem test_ror_a_to_zero :
    ends (step (code { start with a := 0x01, p := unpack 0x24 } [0x6A]))
      0x00 0x00 0x00 0xFD 0x27 0x8001 [] = true := by
  decide +kernel
/-- ROR abs,X (R237). -/
theorem test_ror_abs_x :
    ends (step (code (put { start with x := 0x01, p := unpack 0x25 } [(0x0201, 0x02)]) [0x7E, 0x00, 0x02]))
      0x00 0x01 0x00 0xFD 0xA4 0x8003 [(0x0201, 0x81)] = true := by
  decide +kernel
/-- BNE taken back to itself (R257, source §8). -/
theorem test_bne_taken_back_to_itself :
    ends (step (code { start with p := unpack 0x24 } [0xD0, 0xFE]))
      0x00 0x00 0x00 0xFD 0x24 0x8000 [] = true := by
  decide +kernel
/-- BNE not taken (R257). -/
theorem test_bne_not_taken :
    ends (step (code { start with p := unpack 0x26 } [0xD0, 0xFE]))
      0x00 0x00 0x00 0xFD 0x26 0x8002 [] = true := by
  decide +kernel
/-- BEQ +0 taken (R258). -/
theorem test_beq_0_taken :
    ends (step (code { start with p := unpack 0x26 } [0xF0, 0x00]))
      0x00 0x00 0x00 0xFD 0x26 0x8002 [] = true := by
  decide +kernel
/-- BPL forward +127 (R251). -/
theorem test_bpl_forward_127 :
    ends (step (code start [0x10, 0x7F]))
      0x00 0x00 0x00 0xFD 0x24 0x8081 [] = true := by
  decide +kernel
/-- BMI backward -128 (R252). -/
theorem test_bmi_backward_128 :
    ends (step (code { start with p := unpack 0xA4 } [0x30, 0x80]))
      0x00 0x00 0x00 0xFD 0xA4 0x7F82 [] = true := by
  decide +kernel
/-- BVC taken (R253). -/
theorem test_bvc_taken :
    ends (step (code start [0x50, 0x10]))
      0x00 0x00 0x00 0xFD 0x24 0x8012 [] = true := by
  decide +kernel
/-- BVS not taken (R254). -/
theorem test_bvs_not_taken :
    ends (step (code start [0x70, 0x10]))
      0x00 0x00 0x00 0xFD 0x24 0x8002 [] = true := by
  decide +kernel
/-- BCC taken across a page (R255). -/
theorem test_bcc_taken_across_a_page :
    ends (step (code { start with pc := 0x80F0 } [0x90, 0x10]))
      0x00 0x00 0x00 0xFD 0x24 0x8102 [] = true := by
  decide +kernel
/-- BCS wraps mod 2^16 (R256). -/
theorem test_bcs_wraps_mod_2_16 :
    ends (step (code { start with p := unpack 0x25, pc := 0xFFFC } [0xB0, 0x02]))
      0x00 0x00 0x00 0xFD 0x25 0x0000 [] = true := by
  decide +kernel
/-- JMP abs (R259). -/
theorem test_jmp_abs :
    ends (step (code start [0x4C, 0x34, 0x12]))
      0x00 0x00 0x00 0xFD 0x24 0x1234 [] = true := by
  decide +kernel
/-- JMP (ind) page bug (R260). -/
theorem test_jmp_ind_page_bug :
    ends (step (code (put start [(0x10FF, 0x34), (0x1000, 0x12), (0x1100, 0x56)]) [0x6C, 0xFF, 0x10]))
      0x00 0x00 0x00 0xFD 0x24 0x1234 [] = true := by
  decide +kernel
/-- JSR pushes pc0+2 (R261). -/
theorem test_jsr_pushes_pc0_2 :
    ends (step (code start [0x20, 0x00, 0x90]))
      0x00 0x00 0x00 0xFB 0x24 0x9000 [(0x01FC, 0x02), (0x01FD, 0x80)] = true := by
  decide +kernel
/-- JSR with SP=00 wraps (R261). -/
theorem test_jsr_with_sp_00_wraps :
    ends (step (code { start with sp := 0x00 } [0x20, 0x00, 0x90]))
      0x00 0x00 0x00 0xFE 0x24 0x9000 [(0x0100, 0x80), (0x01FF, 0x02)] = true := by
  decide +kernel
/-- RTS adds 1 (R262). -/
theorem test_rts_adds_1 :
    ends (step (code (put { start with sp := 0xFB, pc := 0x9000 } [(0x01FC, 0x02), (0x01FD, 0x80)]) [0x60]))
      0x00 0x00 0x00 0xFD 0x24 0x8003 [] = true := by
  decide +kernel
/-- RTS from FFFF wraps to 0000 (R262). -/
theorem test_rts_from_ffff_wraps_to_0000 :
    ends (step (code (put { start with sp := 0xFB, pc := 0x9000 } [(0x01FC, 0xFF), (0x01FD, 0xFF)]) [0x60]))
      0x00 0x00 0x00 0xFD 0x24 0x0000 [] = true := by
  decide +kernel
/-- JMP (ind) with P_JMP_IND_BUG=false (R112). -/
theorem test_jmp_ind_with_p_jmp_ind_bug_false :
    ends (step (code (put { start with par := { Config.params with jmpIndBug := false } } [(0x10FF, 0x34), (0x1000, 0x12), (0x1100, 0x56)]) [0x6C, 0xFF, 0x10]))
      0x00 0x00 0x00 0xFD 0x24 0x5634 [] = true := by
  decide +kernel
/-- PHA (R270). -/
theorem test_pha :
    ends (step (code { start with a := 0x42 } [0x48]))
      0x42 0x00 0x00 0xFC 0x24 0x8001 [(0x01FD, 0x42)] = true := by
  decide +kernel
/-- PHA at SP=00 wraps (R270). -/
theorem test_pha_at_sp_00_wraps :
    ends (step (code { start with a := 0x42, sp := 0x00 } [0x48]))
      0x42 0x00 0x00 0xFF 0x24 0x8001 [(0x0100, 0x42)] = true := by
  decide +kernel
/-- PLA sets N (R271). -/
theorem test_pla_sets_n :
    ends (step (code (put { start with sp := 0xFC } [(0x01FD, 0x80)]) [0x68]))
      0x80 0x00 0x00 0xFD 0xA4 0x8001 [] = true := by
  decide +kernel
/-- PLA at SP=FF wraps to $0100 (R271). -/
theorem test_pla_at_sp_ff_wraps_to_0100 :
    ends (step (code (put { start with sp := 0xFF } [(0x0100, 0x00)]) [0x68]))
      0x00 0x00 0x00 0x00 0x26 0x8001 [] = true := by
  decide +kernel
/-- PHP pushes B=1,U=1 (R272). -/
theorem test_php_pushes_b_1_u_1 :
    ends (step (code { start with p := unpack 0x24 } [0x08]))
      0x00 0x00 0x00 0xFC 0x24 0x8001 [(0x01FD, 0x34)] = true := by
  decide +kernel
/-- PHP of all flags (R272). -/
theorem test_php_of_all_flags :
    ends (step (code { start with p := unpack 0xEF } [0x08]))
      0x00 0x00 0x00 0xFC 0xEF 0x8001 [(0x01FD, 0xFF)] = true := by
  decide +kernel
/-- PLP of FF: B reads 0 (R273). -/
theorem test_plp_of_ff_b_reads_0 :
    ends (step (code (put { start with sp := 0xFC } [(0x01FD, 0xFF)]) [0x28]))
      0x00 0x00 0x00 0xFD 0xEF 0x8001 [] = true := by
  decide +kernel
/-- PLP of 00: U stays 1 (R273). -/
theorem test_plp_of_00_u_stays_1 :
    ends (step (code (put { start with sp := 0xFC, p := unpack 0xFF } [(0x01FD, 0x00)]) [0x28]))
      0x00 0x00 0x00 0xFD 0x20 0x8001 [] = true := by
  decide +kernel
/-- CLC (R274). -/
theorem test_clc :
    ends (step (code { start with p := unpack 0x25 } [0x18]))
      0x00 0x00 0x00 0xFD 0x24 0x8001 [] = true := by
  decide +kernel
/-- SEC (R275). -/
theorem test_sec :
    ends (step (code start [0x38]))
      0x00 0x00 0x00 0xFD 0x25 0x8001 [] = true := by
  decide +kernel
/-- CLI (R276). -/
theorem test_cli :
    ends (step (code start [0x58]))
      0x00 0x00 0x00 0xFD 0x20 0x8001 [] = true := by
  decide +kernel
/-- SEI (R277). -/
theorem test_sei :
    ends (step (code { start with p := unpack 0x20 } [0x78]))
      0x00 0x00 0x00 0xFD 0x24 0x8001 [] = true := by
  decide +kernel
/-- CLD (R278). -/
theorem test_cld :
    ends (step (code { start with p := unpack 0x2C } [0xD8]))
      0x00 0x00 0x00 0xFD 0x24 0x8001 [] = true := by
  decide +kernel
/-- SED (R279). -/
theorem test_sed :
    ends (step (code start [0xF8]))
      0x00 0x00 0x00 0xFD 0x2C 0x8001 [] = true := by
  decide +kernel
/-- CLV (R280). -/
theorem test_clv :
    ends (step (code { start with p := unpack 0x64 } [0xB8]))
      0x00 0x00 0x00 0xFD 0x24 0x8001 [] = true := by
  decide +kernel
/-- NOP $EA (R281). -/
theorem test_nop_ea :
    ends (step (code { start with a := 0x12 } [0xEA]))
      0x12 0x00 0x00 0xFD 0x24 0x8001 [] = true := by
  decide +kernel
/-- BRK (R290). -/
theorem test_brk :
    ends (step (code (put { start with p := unpack 0x20, pc := 0x8002 } [(0xFFFE, 0x00), (0xFFFF, 0x90)]) [0x00, 0xFF]))
      0x00 0x00 0x00 0xFA 0x34 0x9000 [(0x01FB, 0x30), (0x01FC, 0x04), (0x01FD, 0x80)] = true := by
  decide +kernel
/-- BRK with SP=01 wraps (R290). -/
theorem test_brk_with_sp_01_wraps :
    ends (step (code (put { start with sp := 0x01 } [(0xFFFE, 0x00), (0xFFFF, 0x90)]) [0x00]))
      0x00 0x00 0x00 0xFE 0x34 0x9000 [(0x0100, 0x02), (0x0101, 0x80), (0x01FF, 0x34)] = true := by
  decide +kernel
/-- RTI restores flags, clears B, no +1 (R291). -/
theorem test_rti_restores_flags_clears_b_no_1 :
    ends (step (code (put { start with sp := 0xFA, p := unpack 0x24, pc := 0x9000 } [(0x01FB, 0xFF), (0x01FC, 0xFF), (0x01FD, 0x12)]) [0x40]))
      0x00 0x00 0x00 0xFD 0xEF 0x12FF [] = true := by
  decide +kernel
/-- SLO to zero (R301). -/
theorem test_slo_to_zero :
    ends (step (code (put { start with a := 0x00 } [(0x0200, 0x80)]) [0x0F, 0x00, 0x02]))
      0x00 0x00 0x00 0xFD 0x27 0x8003 [(0x0200, 0x00)] = true := by
  decide +kernel
/-- RLA (R302). -/
theorem test_rla :
    ends (step (code (put { start with a := 0xFF, p := unpack 0x25 } [(0x0010, 0x80)]) [0x27, 0x10]))
      0x01 0x00 0x00 0xFD 0x25 0x8002 [(0x0010, 0x01)] = true := by
  decide +kernel
/-- SRE (R303). -/
theorem test_sre :
    ends (step (code (put { start with a := 0x01 } [(0x0010, 0x03)]) [0x47, 0x10]))
      0x00 0x00 0x00 0xFD 0x27 0x8002 [(0x0010, 0x01)] = true := by
  decide +kernel
/-- SRE keeps N from A (R303). -/
theorem test_sre_keeps_n_from_a :
    ends (step (code (put { start with a := 0x80 } [(0x0010, 0x02)]) [0x47, 0x10]))
      0x81 0x00 0x00 0xFD 0xA4 0x8002 [(0x0010, 0x01)] = true := by
  decide +kernel
/-- RRA: ROR carry feeds ADC (R304). -/
theorem test_rra_ror_carry_feeds_adc :
    ends (step (code (put { start with a := 0x10 } [(0x0010, 0x03)]) [0x67, 0x10]))
      0x12 0x00 0x00 0xFD 0x24 0x8002 [(0x0010, 0x01)] = true := by
  decide +kernel
/-- RRA overflow (R304). -/
theorem test_rra_overflow :
    ends (step (code (put { start with a := 0x7F, p := unpack 0x24 } [(0x0010, 0x02)]) [0x67, 0x10]))
      0x80 0x00 0x00 0xFD 0xE4 0x8002 [(0x0010, 0x01)] = true := by
  decide +kernel
/-- DCP equal (R305). -/
theorem test_dcp_equal :
    ends (step (code (put { start with a := 0x01 } [(0x0010, 0x02)]) [0xC7, 0x10]))
      0x01 0x00 0x00 0xFD 0x27 0x8002 [(0x0010, 0x01)] = true := by
  decide +kernel
/-- DCP wraps 00 to FF (R305). -/
theorem test_dcp_wraps_00_to_ff :
    ends (step (code (put { start with a := 0xFF, x := 0x01 } [(0x0010, 0x00)]) [0xD7, 0x0F]))
      0xFF 0x01 0x00 0xFD 0x27 0x8002 [(0x0010, 0xFF)] = true := by
  decide +kernel
/-- ISC (R306). -/
theorem test_isc :
    ends (step (code (put { start with a := 0x05, p := unpack 0x25 } [(0x0010, 0xFF)]) [0xE7, 0x10]))
      0x05 0x00 0x00 0xFD 0x25 0x8002 [(0x0010, 0x00)] = true := by
  decide +kernel
/-- ISC borrow (R306). -/
theorem test_isc_borrow :
    ends (step (code (put { start with a := 0x00, p := unpack 0x25 } [(0x0200, 0x00)]) [0xEF, 0x00, 0x02]))
      0xFF 0x00 0x00 0xFD 0xA4 0x8003 [(0x0200, 0x01)] = true := by
  decide +kernel
/-- LAX zp (R307). -/
theorem test_lax_zp :
    ends (step (code (put start [(0x0010, 0x80)]) [0xA7, 0x10]))
      0x80 0x80 0x00 0xFD 0xA4 0x8002 [] = true := by
  decide +kernel
/-- LAX zp,Y (R307). -/
theorem test_lax_zp_y :
    ends (step (code (put { start with y := 0x11 } [(0x0010, 0x00)]) [0xB7, 0xFF]))
      0x00 0x00 0x11 0xFD 0x26 0x8002 [] = true := by
  decide +kernel
/-- SAX (R308). -/
theorem test_sax :
    ends (step (code { start with a := 0xF0, x := 0x3C, p := unpack 0xA5 } [0x87, 0x10]))
      0xF0 0x3C 0x00 0xFD 0xA5 0x8002 [(0x0010, 0x30)] = true := by
  decide +kernel
/-- SAX zp,Y (R308). -/
theorem test_sax_zp_y :
    ends (step (code { start with a := 0xFF, x := 0x0F, y := 0x20 } [0x97, 0xF0]))
      0xFF 0x0F 0x20 0xFD 0x24 0x8002 [(0x0010, 0x0F)] = true := by
  decide +kernel
/-- gated NOP $1A faults when P_EXTRA_UNOFFICIAL=false (R310). -/
theorem test_gated_nop_1a_faults_when_p_extra_unofficial_false :
    faults (step (code start [0x1A])) (code start [0x1A]) 0x1A = true := by
  decide +kernel
/-- gated SBC $EB faults when P_EXTRA_UNOFFICIAL=false (R310). -/
theorem test_gated_sbc_eb_faults_when_p_extra_unofficial_false :
    faults (step (code start [0xEB, 0x01])) (code start [0xEB, 0x01]) 0xEB = true := by
  decide +kernel
/-- NOP $1A (R311). -/
theorem test_nop_1a :
    ends (step (code opened [0x1A]))
      0x00 0x00 0x00 0xFD 0x24 0x8001 [] = true := by
  decide +kernel
/-- NOP #imm $80 (R312). -/
theorem test_nop_imm_80 :
    ends (step (code opened [0x80, 0x55]))
      0x00 0x00 0x00 0xFD 0x24 0x8002 [] = true := by
  decide +kernel
/-- NOP zp $04 reads $0010 and discards it (R313). -/
theorem test_nop_zp_04_reads_0010_and_discards_it :
    ends (step (code (put opened [(0x0010, 0x99)]) [0x04, 0x10]))
      0x00 0x00 0x00 0xFD 0x24 0x8002 [] = true := by
  decide +kernel
/-- NOP zp,X $14 wraps (R314). -/
theorem test_nop_zp_x_14_wraps :
    ends (step (code { opened with x := 0x20 } [0x14, 0xF0]))
      0x00 0x20 0x00 0xFD 0x24 0x8002 [] = true := by
  decide +kernel
/-- NOP abs $0C (R315). -/
theorem test_nop_abs_0c :
    ends (step (code opened [0x0C, 0x00, 0x20]))
      0x00 0x00 0x00 0xFD 0x24 0x8003 [] = true := by
  decide +kernel
/-- NOP abs,X $1C (R316). -/
theorem test_nop_abs_x_1c :
    ends (step (code { opened with x := 0x01 } [0x1C, 0xFF, 0x20]))
      0x00 0x01 0x00 0xFD 0x24 0x8003 [] = true := by
  decide +kernel
/-- SBC $EB is SBC #imm (R317). -/
theorem test_sbc_eb_is_sbc_imm :
    ends (step (code { opened with a := 0x00, p := unpack 0x25 } [0xEB, 0x01]))
      0xFF 0x00 0x00 0xFD 0xA4 0x8002 [] = true := by
  decide +kernel
/-- JAM $02 faults (R331). -/
theorem test_jam_02_faults :
    faults (step (code { start with a := 0x12 } [0x02])) (code { start with a := 0x12 } [0x02]) 0x02 = true := by
  decide +kernel
/-- LAX #imm $AB faults (R331). -/
theorem test_lax_imm_ab_faults :
    faults (step (code start [0xAB, 0x00])) (code start [0xAB, 0x00]) 0xAB = true := by
  decide +kernel

/-! ### Host calls (95_test_vectors.md §2.8) and bus order (§2.2) -/

/-- The example of R342. -/
theorem test_nmi :
    ends (nmiCall (put { start with pc := 0x8123, p := unpack 0xE1 } [(0xFFFA, 0x00), (0xFFFB, 0xC0)])) 0 0 0 0xFA 0xE5 0xC000
      [(0x01FD, 0x81), (0x01FC, 0x23), (0x01FB, 0xE1)] = true := by
  decide +kernel
/-- NMI pushes B = 0 whatever the stored B. -/
theorem test_nmi_pushes_b_clear :
    ends (nmiCall (put { start with p := unpack 0x34 } [(0xFFFA, 0x00), (0xFFFB, 0xC0)])) 0 0 0 0xFA 0x34 0xC000
      [(0x01FD, 0x80), (0x01FC, 0x00), (0x01FB, 0x24)] = true := by
  decide +kernel
/-- Reset loads only PC. -/
theorem test_reset_call :
    ends (resetCall (put { start with a := 0x12, x := 0x34, y := 0x56, sp := 0x80, p := unpack 0xE7, pc := 0x1234 }
      [(0xFFFC, 0x00), (0xFFFD, 0x80)])) 0x12 0x34 0x56 0x80 0xE7 0x8000 [] = true := by
  decide +kernel
/-- R389's end marker: JMP to itself. -/
theorem test_self_jump : ends (step (code start [0x4C, 0x00, 0x80])) 0 0 0 0xFD 0x24 0x8000 [] = true := by decide +kernel
/-- Never-written memory at the reset vector and at PC: BRK through an all-zero vector (R332). -/
theorem test_step_from_reset : ends (step State.reset) 0 0 0 0xFA 0x34 0x0000 [(0x01FB, 0x34), (0x01FC, 0x02)] = true := by
  decide +kernel
/-- A word placed where step fetches it runs first (log 7). -/
theorem test_with_fetch_word : ends (step (State.reset.withFetchWord 16 0x80A9)) 0x80 0 0 0xFD 0xA4 0x0002 [] = true := by
  decide +kernel

/-- §2.2, instructions with data accesses. -/
theorem test_access_order_data :
    order (step (code start [0xAD, 0x34, 0x12])) = [(false, 0x8000), (false, 0x8001), (false, 0x8002), (false, 0x1234)] ∧
    order (step (code start [0x85, 0x10])) = [(false, 0x8000), (false, 0x8001), (true, 0x0010)] ∧
    order (step (code start [0xE6, 0x10])) = [(false, 0x8000), (false, 0x8001), (false, 0x0010), (true, 0x0010)] ∧
    order (step (code { start with y := 0x01 } [0xB1, 0x20])) = [(false, 0x8000), (false, 0x8001), (false, 0x0020), (false, 0x0021), (false, 0x0001)] ∧
    order (step (code start [0x6C, 0xFF, 0x10])) = [(false, 0x8000), (false, 0x8001), (false, 0x8002), (false, 0x10FF), (false, 0x1000)] ∧
    order (step (code start [0x20, 0x00, 0x90])) = [(false, 0x8000), (false, 0x8001), (false, 0x8002), (true, 0x01FD), (true, 0x01FC)] ∧
    order (step (code { start with sp := 0xFB } [0x60])) = [(false, 0x8000), (false, 0x01FC), (false, 0x01FD)] := by
  decide +kernel
/-- §2.2, the rest. -/
theorem test_access_order_rest :
    order (step (code start [0x00])) = [(false, 0x8000), (true, 0x01FD), (true, 0x01FC), (true, 0x01FB), (false, 0xFFFE), (false, 0xFFFF)] ∧
    order (step (code { start with sp := 0xFA } [0x40])) = [(false, 0x8000), (false, 0x01FB), (false, 0x01FC), (false, 0x01FD)] ∧
    order (step (code start [0x07, 0x10])) = [(false, 0x8000), (false, 0x8001), (false, 0x0010), (true, 0x0010)] ∧
    order (step (code start [0x48])) = [(false, 0x8000), (true, 0x01FD)] ∧
    order (step (code { start with sp := 0xFC } [0x68])) = [(false, 0x8000), (false, 0x01FD)] ∧
    order (step (code start [0x0A])) = [(false, 0x8000)] ∧
    order (step (code start [0xD0, 0x02])) = [(false, 0x8000), (false, 0x8001)] ∧
    order (nmiCall { start with pc := 0x8123, p := unpack 0xE1 }) = [(true, 0x01FD), (true, 0x01FC), (true, 0x01FB), (false, 0xFFFA), (false, 0xFFFB)] ∧
    order (resetCall start) = [(false, 0xFFFC), (false, 0xFFFD)] := by
  decide +kernel

/-! ### Cycles (R385, R386; the numbers are opcode_table.json's) -/

/-- LDA abs,X costs 4, and 5 under the penalties when $12FF + 1 leaves page $12; STA abs,X costs 5 either way. -/
theorem test_page_crossing_costs :
    cycles (step (code { start with x := 1 } [0xBD, 0xFF, 0x12])) = some 4 ∧
    cycles (step (code { penal with x := 1 } [0xBD, 0xFF, 0x12])) = some 5 ∧
    cycles (step (code { penal with x := 1 } [0xBD, 0xFE, 0x12])) = some 4 ∧
    cycles (step (code { penal with x := 1 } [0x9D, 0xFF, 0x12])) = some 5 := by
  decide +kernel
/-- A branch: 2 not taken; taken 2 without penalties, 3 with them, 4 across a page. -/
theorem test_branch_costs :
    cycles (step (code penal [0xF0, 0x10])) = some 2 ∧ cycles (step (code start [0xD0, 0x10])) = some 2 ∧
    cycles (step (code penal [0xD0, 0x10])) = some 3 ∧ cycles (step (code penal [0xD0, 0x80])) = some 4 := by
  decide +kernel

/-! ### A platform bus (R62, R64): byte storage, one status register and a hole; the addresses are the tests' own -/

/-- A status register whose read clears bit 7, as R64 says of the PPU's. -/
def statusRegister : Device Byte where
  read b _ := (b.dev, { b with dev := b.dev &&& 0x7F })
  write b _ _ := b

/-- $2000 to $3FFF are the register, mirrored; $6000 to $6FFF are unmapped; $0000 to $07FF are storage mirrored up to $1FFF;
all else is storage. -/
def testMap (a : Addr) : Option Mapping :=
  if a.toNat < 0x2000 then some { device := 0, mirrorMask := some 0x07FF }
  else if a.toNat < 0x4000 then some { device := 1, mirrorMask := some 0x2007 }
  else if 0x6000 ≤ a.toNat ∧ a.toNat < 0x7000 then none
  else some { device := 0, mirrorMask := none }

def testBus : Bus := Bus.platform testMap fun k => if k = 1 then statusRegister else Device.storage Byte

/-- The start on that bus, the register holding $C1, with an instruction at PC. -/
def plugged (bytes : List Byte) : State testBus :=
  (State.powerOnWith testBus Config.params { Config.powerOn with pc := 0x8000 } { cells := [], dev := (0xC1 : Byte) }).placeAtPc bytes

/-- The A, the register and the storage cell at `a` that an outcome leaves. -/
def seen (o : Host.Outcome (State testBus) Fault Refusal) (a : Nat) : Option (Byte × Byte × Byte) :=
  match o with
  | .next t => some (t.a, t.dev, t.mem.read a)
  | .fault _ => none
  | .refused _ => none

/-- LDA of the register reads it once, and the read clears its bit 7 (R64). -/
theorem test_device_read_changes_state : seen (stepOn (plugged [0xAD, 0x0A, 0x20])) 0 = some (0xC1, 0x41, 0x00) := by
  decide +kernel
/-- A store at $0812 lands at $0012 through the mirror mask, and one in the hole is dropped (R62). -/
theorem test_mirror_and_miss :
    seen (stepOn { plugged [0x8D, 0x12, 0x08] with a := 0x5A }) 0x0012 = some (0x5A, 0xC1, 0x5A) ∧
    seen (stepOn { plugged [0x8D, 0x00, 0x60] with a := 0x5A }) 0x6000 = some (0x5A, 0xC1, 0x00) := by
  decide +kernel
/-- A read in the hole answers 0, and an opcode fetched there is BRK, no fault (R62, R332). -/
theorem test_miss_reads_zero :
    seen (stepOn { plugged [0xAD, 0x00, 0x60] with a := 0x5A }) 0 = some (0x00, 0xC1, 0x00) ∧
    seen (stepOn { plugged [] with pc := 0x6000, a := 0x5A }) 0x01FC = some (0x5A, 0xC1, 0x02) := by
  decide +kernel
/-- An update sets the register and a cell of a Faulted CORE, whose run and PC stay and which issues no transaction (R345). -/
theorem test_update_of_a_faulted_core :
    let s : State testBus := { plugged [] with run := .faulted 0x02 0x8000, bus := [.read 0x8000 0x02] }
    hostCall s (.busUpdate rfl { cells := [(0x0012, 0x5A)], dev := (0x80 : Byte) }) =
      .next { s with mem := [(0x0012, 0x5A)], dev := (0x80 : Byte), bus := [] } :=
  rfl
/-- The reference bus has no update after the launch (R80, R345). -/
theorem test_no_update_on_the_reference_bus (c : HostCall Bus.reference.Dev Bus.reference.hostUpdates) :
    c = .reset ∨ c = .nmi ∨ c = .step := c.cases_without_updates

/-! ### Witnesses: the hypotheses of each obligation that has some, met together -/

/-- A state that has taken the fault. -/
def broken : State := { start with run := .faulted 0x02 0x8000 }

theorem witness_StepRunsDecodedInstruction :
    let s := code start [0xA9, 0x05]
    s.run = .running ∧ decodeAt (s.peek s.pc) (s.peek (s.pc + 1)) (s.peek (s.pc + 2)) = .lda (.imm 0x05) := by
  decide +kernel
theorem witness_FaultedCoreAcceptsNothing : broken.run = .faulted 0x02 0x8000 := rfl
theorem witness_DecodeInvertsEncode :
    (Instr.lda (.absx 0x12FF)).wellFormed = true ∧ encode (.lda (.absx 0x12FF)) = [0xBD, 0xFF, 0x12] ∧
    (Instr.nopAbsx 0xFC 0xFFFF).wellFormed = true ∧ (Instr.unimplemented 0x02).wellFormed = true := by
  decide
/-- The settings every statement about base cycles asks for. -/
theorem witness_Costs : opened.par.extraUnofficial = true ∧ opened.par.cyclePenalties = false := ⟨rfl, rfl⟩
/-- The lowest and the highest address of each mode in memory that does not wrap, and the wrap of those that do. -/
theorem witness_EffectiveAddresses :
    (({ start with x := 1 } : State).resolve (.zpx 0xFF)).1 = 0x0000 ∧ (({ start with y := 1 } : State).resolve (.absy 0xFFFF)).1 = 0x0000 ∧
    (start.readOperand (.zp 0x10)).2.bus = [.read 0x0010 0x00] ∧ (start.readOperand (.imm 0x10)).2.bus = [] := by
  decide +kernel
theorem witness_LoadResults :
    (ModeTag.absx, 0xBD, 4) ∈ fullRows 0xA9 0xA5 0xB5 0xAD 0xBD 0xB9 0xA1 0xB1 ∧
    operandOf .absx 0xFF 0x12 = some (.absx 0x12FF) ∧ operandOf .zpy 0xFF 0x00 = some (.zpy 0xFF) := by
  decide
theorem witness_StoreResults : operandOf .izy 0x20 0x00 = some (.izy 0x20) ∧ operandOf .abs 0xFF 0xFF = some (.abs 0xFFFF) := by
  decide
theorem witness_AdcSbcResults :
    (ModeTag.imm, 0x69, 2) ∈ fullRows 0x69 0x65 0x75 0x6D 0x7D 0x79 0x61 0x71 ∧
    (ModeTag.izy, 0xF1, 5) ∈ fullRows 0xE9 0xE5 0xF5 0xED 0xFD 0xF9 0xE1 0xF1 ∧ operandOf .imm 0x80 0x00 = some (.imm 0x80) := by
  decide
theorem witness_LogicResults :
    (ModeTag.izx, 0x21, 6) ∈ fullRows 0x29 0x25 0x35 0x2D 0x3D 0x39 0x21 0x31 ∧ operandOf .izx 0xFE 0x00 = some (.izx 0xFE) := by
  decide
theorem witness_CompareResults :
    (ModeTag.absy, 0xD9, 4) ∈ fullRows 0xC9 0xC5 0xD5 0xCD 0xDD 0xD9 0xC1 0xD1 ∧
    operandOf .absy 0xFF 0xFF = some (.absy 0xFFFF) := by
  decide
theorem witness_IncDecResults :
    (ModeTag.absx, 0xFE, 7) ∈ modifyRows 0xE6 0xF6 0xEE 0xFE ∧ (ModeTag.zp, 0xC6, 5) ∈ modifyRows 0xC6 0xD6 0xCE 0xDE ∧
    operandOf .zp 0x10 0x00 = some (.zp 0x10) := by
  decide
theorem witness_MemoryShiftResults :
    (ModeTag.zpx, 0x36, 6) ∈ modifyRows 0x26 0x36 0x2E 0x3E ∧ operandOf .zpx 0x0F 0x00 = some (.zpx 0x0F) := by
  decide
theorem witness_FusedResults :
    (ModeTag.izy, 0x13, 8) ∈ fusedRows 0x07 0x17 0x0F 0x1F 0x1B 0x03 0x13 ∧
    (ModeTag.absy, 0xFB, 7) ∈ fusedRows 0xE7 0xF7 0xEF 0xFF 0xFB 0xE3 0xF3 ∧ operandOf .izy 0x13 0x00 = some (.izy 0x13) := by
  decide
theorem witness_LaxSaxResults : operandOf .zpy 0xB7 0x00 = some (.zpy 0xB7) ∧ operandOf .izx 0xA3 0x00 = some (.izx 0xA3) := by
  decide
/-- The first and the last branch, and states in which each is taken and not taken. -/
theorem witness_BranchResults :
    (Instr.bpl, 0x10, fun p : Flags => !p.n) ∈ branches ∧ (Instr.beq, 0xF0, fun p : Flags => p.z) ∈ branches ∧
    (!start.p.n) = true ∧ start.p.z = false := by
  simp [branches, start, State.powerOn, State.powerOnWith, Config.powerOn, unpack]
theorem witness_FlagInstructionResults :
    (Instr.clc, 0x18, fun p : Flags => { p with c := false }) ∈ flagInstrs ∧ (Instr.nop, 0xEA, fun p : Flags => p) ∈ flagInstrs := by
  simp [flagInstrs]
theorem witness_GatedResultsWhenEnabled :
    opened.par.extraUnofficial = true ∧ opened.par.cyclePenalties = false ∧ 0x1A ∈ opsNopImp ∧ 0xFA ∈ opsNopImp ∧
    0x80 ∈ opsNopImm ∧ 0x04 ∈ opsNopZp ∧ 0x14 ∈ opsNopZpx ∧ 0xFC ∈ opsNopAbsx := by
  decide
theorem witness_GatedFaultsWhenDisabled :
    kindOf (.nopImp 0x1A) = .gated ∧ kindOf (.sbcEB 0x01) = .gated ∧ start.par.extraUnofficial = false := by
  decide
/-- An absent byte with the gate open, and a gated one with it shut. -/
theorem witness_UnimplementedOpcodeFault :
    (let s := code opened [0x02]
     s.run = .running ∧ s.peek s.pc = 0x02 ∧ kindOf (decodeAt 0x02 0 0) = .absent) ∧
    (let s := code start [0xEB, 0x01]
     s.run = .running ∧ s.peek s.pc = 0xEB ∧ kindOf (decodeAt 0xEB 0 0) = .gated ∧ s.par.extraUnofficial = false) := by
  decide +kernel
/-- A running state whose step faults and one whose step does not. -/
theorem witness_NothingElseTraps :
    start.run = .running ∧ (code start [0x02]).fetchInstr.isAbsent start.par = true ∧
    start.fetchInstr.isAbsent start.par = false := by
  decide +kernel
theorem witness_NmiEntry : start.run = .running ∧ start.p.i = true := ⟨rfl, rfl⟩
/-- SP = $01, where the three pushes wrap. -/
theorem witness_NmiThenRtiResumes : ({ start with sp := 0x01 } : State).run = .running := rfl
theorem witness_ResetCallWritesPcOnly : (put start [(0xFFFC, 0x00), (0xFFFD, 0x80)]).run = .running := rfl
/-- The shortest image with the vectors and the longest one, with each clause's boundary. -/
theorem witness_LaunchImageBytes :
    ([0x11, 0x22, 0x33, 0x44, 0x55, 0x66] : List Byte).length ≤ 65536 ∧
    5 < ([0x11, 0x22, 0x33, 0x44, 0x55, 0x66] : List Byte).length ∧
    65529 < 65536 - ([0x11, 0x22, 0x33, 0x44, 0x55, 0x66] : List Byte).length ∧
    (List.replicate 65536 (0 : Byte)).length ≤ 65536 :=
  ⟨by decide, by decide, by decide, Nat.le_of_eq List.length_replicate⟩
/-- Penalties on, gate open, an access that crosses a page and one that does not, a branch taken across a page. -/
theorem witness_CyclePenalties :
    let s : State := { penal with x := 1, par := { penal.par with extraUnofficial := true } }
    s.par.cyclePenalties = true ∧ s.par.extraUnofficial = true ∧ crosses s (.absx 0x12FF) = true ∧
    crosses s (.absx 0x12FE) = false ∧ hiByte (s.pc + 2 + sext16 0x80) ≠ hiByte (s.pc + 2) := by
  decide +kernel
theorem witness_CyclePenalties_members :
    Instr.lda ∈ readers ∧ Instr.lax ∈ readers ∧ Instr.sta ∈ writers ∧ Instr.isc ∈ modifiers ∧
    (Instr.bne, 0xD0, fun p : Flags => !p.z) ∈ branches := by
  simp [readers, writers, modifiers, branches]
theorem witness_NormalEndIsFixpoint : normalEnd 0x8000 (code start [0x4C, 0x00, 0x80]) = true ∧
    normalEnd 0xFFFE (code { start with pc := 0xFFFE } [0x4C, 0xFE, 0xFF]) = true := by
  decide +kernel
theorem witness_StepKeepsMemoryCanonical :
    memoryOk (code start [0x48]) = true ∧ (∃ t, step (code start [0x48]) = .next t) ∧ (∃ t, nmiCall start = .next t) ∧
    (∃ t, resetCall start = .next t) :=
  ⟨by decide +kernel, ⟨_, rfl⟩, ⟨_, rfl⟩, ⟨_, rfl⟩⟩
/-- For each register, an instruction that is not a writer of it. -/
theorem witness_RegisterWriters :
    writesA (.ldx (.imm 1)) = false ∧ writesX (.lda (.imm 1)) = false ∧ writesY .tax = false ∧ writesSp (.sax (.zp 1)) = false := by
  decide
/-- For each flag, an instruction that is not a writer of it. -/
theorem witness_FlagWriters :
    writesC (.bit (.zp 1)) = false ∧ writesNZ .txs = false ∧ writesV (.cmp (.imm 1)) = false ∧ writesI .php = false ∧
    writesD (.adc (.imm 1)) = false ∧ writesB .clv = false := by
  decide
/-- An address outside JSR's two stack slots at SP = $00, where they wrap, and outside STA's byte. -/
theorem witness_MemoryFrame :
    (0x00FF : Addr) ∉ stored { start with sp := 0x00 } (.jsr 0x9000) ∧ (0x01FF : Addr) ∈ stored { start with sp := 0x00 } (.jsr 0x9000) ∧
    (0x0011 : Addr) ∉ stored start (.sta (.zp 0x10)) := by
  decide
/-- Two different states that agree but for the stored B. -/
theorem witness_StoredBreakIsUnobservable :
    let s' : State := { start with p := { start.p with b := true } }
    s' ≠ start ∧ forgetB start = forgetB s' := by
  decide
/-- Two different states that agree but for D and I, and an instruction that is neither PHP nor BRK. -/
theorem witness_DecimalAndInterruptGateNothing :
    let s' : State := { start with p := { start.p with d := true, i := false } }
    s' ≠ start ∧ forgetDI start = forgetDI s' ∧ Instr.adc (.imm 0x01) ≠ .php ∧ Instr.adc (.imm 0x01) ≠ .brk := by
  decide
/-- Two different states that agree but for cyc. -/
theorem witness_CycleCounterIsNeverRead :
    let s' : State := { start with cyc := 5 }
    s' ≠ start ∧ forgetCyc start = forgetCyc s' := by
  decide
/-- On the platform bus of the tests, an address of each clause: unmapped, mapped with a mask, mapped without one. -/
theorem witness_BusIsAParameter :
    testMap 0x6000 = none ∧ testMap 0x3FFF = some { device := 1, mirrorMask := some 0x2007 } ∧
    testMap 0xFFFF = some { device := 0, mirrorMask := none } := by
  decide
/-- A running state on a bus whose reads change its state. -/
theorem witness_EveryTransitionIsItsTransactions :
    (plugged [0xAD, 0x0A, 0x20]).run = .running ∧ seen (.next (plugged [])) 0 = some (0x00, 0xC1, 0x00) ∧
    seen (.next ((plugged []).memRead 0x2000).2) 0 = some (0x00, 0x41, 0x00) := by
  decide +kernel


end Sys2Proof.Tests
end

section
/-! PROOFS. The family 00_scope: the bus is a parameter (O59), and every transition keeps the storage canonical (O51). A
transition is its bus transactions on every bus; on the reference bus transactions keep the canonical form. -/

namespace Sys2Proof.Machine

/-! ### The reference bus is the default bus -/

/-- Each arm of execOn is exec's. -/
theorem execOn_reference (i : Instr) (s : State) : execOn i s = exec i s := by
  cases i <;> rfl

theorem stepOn_reference (s : State) : stepOn s = step s := by
  unfold stepOn step
  cases s.run with
  | running => exact execOn_reference _ _
  | faulted op pc0 => rfl

/-! ### The platform bus (R62) -/

section Platform

variable {Dev : Type} {map : Addr → Option Mapping} (devices : Nat → Device Dev) (c : BusState Dev) {a : Addr} (v : Byte)

/-- A miss reads 0 and drops the write. -/
theorem Bus.platform_unmapped (h : map a = none) :
    (Bus.platform map devices).port.read c a = (0, c) ∧ (Bus.platform map devices).port.write c a v = c := by
  simp [Bus.platform, h]

/-- A hit is the mapped device's access at the canonical address. -/
theorem Bus.platform_mapped {m : Mapping} (h : map a = some m) :
    (Bus.platform map devices).port.read c a = (devices m.device).read c (m.canonical a) ∧
    (Bus.platform map devices).port.write c a v = (devices m.device).write c (m.canonical a) v := by
  simp [Bus.platform, h]

end Platform

/-! ### Every transition is its transactions -/

section Traced

variable {B : Bus} {b : BusState B.Dev} {s : State B}

/-- Every instruction completes and keeps the trace. The cases are the access classes (R162), and below them the instructions
that reach the bus through the stack, a vector or a pointer. -/
theorem execOn_traced (h : s.tracedFrom b) (i : Instr) : ∃ t, execOn i s = .next t ∧ t.tracedFrom b := by
  cases i with dsimp only [execOn]
  | lda m | ldx m | ldy m | adc m | sbc m | and m | ora m | eor m | bit m | cmp m | cpx m | cpy m | lax m =>
    exact readClass_traced h m fun _ _ ht => ht
  | sta m | stx m | sty m | sax m => exact writeClass_traced h m _
  | inc m | dec m | asl m | lsr m | rol m | ror m | slo m | rla m | sre m | rra m | dcp m | isc m =>
    exact modifyClass_traced h m (fun _ _ ht => ht) (fun _ _ ht => ht)
  | tax | tay | txa | tya | tsx | txs | inx | iny | dex | dey | aslA | lsrA | rolA | rorA
  | clc | sec | cli | sei | cld | sed | clv | nop =>
    exact registerClass_traced h 2 fun _ ht => ht
  | bpl d | bmi d | bvc d | bvs d | bcc d | bcs d | bne d | beq d => exact branchClass_traced h _ d
  | pha | php => exact registerClass_traced h 3 fun _ ht => State.traced_push ht _
  | pla | plp => exact registerClass_traced h 4 fun _ ht => State.traced_pull ht
  | jmp w => exact ⟨_, rfl, h⟩
  | jmpInd w => exact ⟨_, rfl, State.traced_readPair h _ _⟩
  | jsr w => exact ⟨_, rfl, State.traced_push (State.traced_push h _) _⟩
  | rts => exact ⟨_, rfl, State.traced_pull (State.traced_pull h)⟩
  | brk => exact ⟨_, rfl, (State.traced_addCycles _).2 (State.traced_enterHandler ((State.traced_setP _).2 h) _ _ _)⟩
  | rti => exact ⟨_, rfl, (State.traced_addCycles _).2 (State.traced_returnFromHandler h)⟩
  | nopImp op => exact gated_traced h op (registerClass_traced h 2 fun _ ht => ht)
  | nopImm | nopZp | nopZpx | nopAbs | nopAbsx | sbcEB =>
    exact gated_traced h _ (readClass_traced h _ fun _ _ ht => ht)
  | unimplemented op => exact ⟨_, rfl, h⟩

theorem stepOn_traced (hr : s.run = .running) : ∃ t, stepOn s = .next t ∧ t.tracedFrom s.busState := by
  simp only [stepOn, hr]
  exact execOn_traced s.traced_fetched _

/-- A host call completes in a running state and keeps the trace when its transition does. -/
theorem whenRunning_traced (hr : s.run = .running) {f : State B → State B}
    (hf : ∀ t : State B, t.tracedFrom s.busState → (f t).tracedFrom s.busState) :
    ∃ t, whenRunning s f = .next t ∧ t.tracedFrom s.busState := by
  simp only [whenRunning, hr]
  exact ⟨_, rfl, hf _ s.traced_new⟩

theorem nmiCall_traced (hr : s.run = .running) : ∃ t, nmiCall s = .next t ∧ t.tracedFrom s.busState :=
  whenRunning_traced hr fun _ ht => (State.traced_addCycles _).2 (State.traced_enterHandler ht _ _ _)

theorem resetCall_traced (hr : s.run = .running) : ∃ t, resetCall s = .next t ∧ t.tracedFrom s.busState :=
  whenRunning_traced hr fun _ ht => State.traced_loadVector ht _

/-- Of a Faulted CORE neither a step nor an NMI nor a reset has a next state (R38, R376). -/
theorem running_of_next {t : State B} (h : stepOn s = .next t ∨ nmiCall s = .next t ∨ resetCall s = .next t) :
    s.run = .running := by
  cases hr : s.run with
  | running => rfl
  | faulted op pc0 => simp [stepOn, nmiCall, resetCall, whenRunning, hr] at h

/-- The bus state after any transition is what its transactions, from the bus state before it, leave. -/
theorem traced_of_next {t : State B} (h : stepOn s = .next t ∨ nmiCall s = .next t ∨ resetCall s = .next t) :
    t.tracedFrom s.busState := by
  have hr := running_of_next h
  obtain ⟨u, hu, hstep⟩ := stepOn_traced hr
  obtain ⟨v, hv, hnmi⟩ := nmiCall_traced hr
  obtain ⟨w, hw, hreset⟩ := resetCall_traced hr
  rcases h with h | h | h
  · cases hu.symm.trans h; exact hstep
  · cases hv.symm.trans h; exact hnmi
  · cases hw.symm.trans h; exact hreset

end Traced

/-! ### On the reference bus transactions keep the canonical form -/

/-- Reads change no cell, and a write is at an address below 2^16 (R7, R61). -/
theorem Bus.replay_reference_wf {l : List Access} {b c : BusState Unit} (hb : b.cells.wf = true)
    (h : Bus.reference.replay b l = some c) : c.cells.wf = true := by
  induction l generalizing b with
  | nil => cases h; exact hb
  | cons x l ih =>
    cases x with
    | read a v =>
      simp only [Bus.replay] at h
      split at h
      · exact ih hb h
      · cases h
    | write a v => exact ih (Memory.wf_write _ _ v a.isLt hb) h

theorem memoryOk_of_traced {s t : State} (hs : memoryOk s = true) (ht : t.tracedFrom s.busState) :
    memoryOk t = true :=
  Bus.replay_reference_wf (b := s.busState) (c := t.busState) hs ht

end Sys2Proof.Machine

namespace Sys2Proof.Claims

open Sys2Proof.Machine

/-- Settles O51: a transition's storage is what its logged transactions leave, and each of them keeps the canonical form. -/
theorem stepKeepsMemoryCanonical : Obligations.StepKeepsMemoryCanonical := by
  intro s t hs h
  rw [← stepOn_reference] at h
  exact memoryOk_of_traced hs (traced_of_next h)

/-- Settles O59: the first two clauses are the bus operations' definitions, the platform bus goes by what its map says of the
address, and exec and step are the machine on the default bus arm by arm. -/
theorem busIsAParameter : Obligations.BusIsAParameter := by
  refine ⟨fun B s a v => ⟨rfl, rfl⟩, fun c a v => ⟨rfl, rfl⟩, fun Dev map devices c a v => ⟨?_, ?_, ?_⟩, ?_⟩
  · exact Bus.platform_unmapped devices c v
  · exact fun k hk => Bus.platform_mapped devices c v hk
  · exact fun k mask hk => Bus.platform_mapped devices c v hk
  · exact fun i s => ⟨execOn_reference i s, stepOn_reference s⟩

end Sys2Proof.Claims
end

section
/-! PROOFS. The family 10_state: the stack (O28, O29, O30), the status byte and the stack's addresses (O33, O9), the Faulted
CORE (O2), who writes each register and flag (O53, O54), and what no transition reads (O56, O57, O58). -/

namespace Sys2Proof.Machine

/-! ### The status byte (R34) -/

/-- The flags from bit 7 down, bit 5 always 1. -/
theorem pack_layout (p : Flags) :
    pack p = (bitByte p.n <<< 7) ||| (bitByte p.v <<< 6) ||| 0x20 ||| (bitByte p.b <<< 4) |||
      (bitByte p.d <<< 3) ||| (bitByte p.i <<< 2) ||| (bitByte p.z <<< 1) ||| bitByte p.c := by
  obtain ⟨n, v, b, d, i, z, c⟩ := p
  revert n v b d i z c
  decide

theorem pack_bit5 (p : Flags) : (pack p).getLsbD 5 = true := by
  obtain ⟨n, v, b, d, i, z, c⟩ := p
  revert n v b d i z c
  decide

theorem pack_unpack (v : Byte) : pack (unpack v) = v ||| 0x20 := by
  revert v
  decide

/-- Bit 5 is no flag. -/
theorem unpack_flip_bit5 (v : Byte) : unpack (v ^^^ 0x20) = unpack v := by
  simp [unpack]

/-- The byte PHP pushes has bit 4 set, whatever the stored B is (R272). -/
theorem pushedByPhp_ignores_b (p : Flags) : pushedByPhp { p with b := false } = pushedByPhp p := by
  obtain ⟨n, v, b, d, i, z, c⟩ := p
  revert n v b d i z c
  decide

/-- The byte NMI entry pushes has bit 4 clear, whatever the stored B is (R342). -/
theorem pushedByNmi_ignores_b (p : Flags) : pushedByNmi { p with b := false } = pushedByNmi p := by
  obtain ⟨n, v, b, d, i, z, c⟩ := p
  revert n v b d i z c
  decide

/-! ### Zero page and stack -/

theorem zeroPage_lt (b index : Byte) : (zeroPage b index).toNat < 256 := by
  rw [zeroPage, zext16, BitVec.toNat_setWidth_of_le (by decide)]
  exact (b + index).isLt

/-- SP after pushing and pulling a word (R35, R42, R43). -/
theorem pull16_push16_sp (s : State) (w : Addr) : (s.push16 w).pull16.2.sp = s.sp := by
  simp only [State.push16, State.pull16_spec, State.pull_sp, State.push_sp, BitVec.sub_add_cancel]

/-- The two slots of a pushed word are different ones, so the low byte does not overwrite the high one (R42). -/
theorem pull16_push16_value (s : State) (w : Addr) : (s.push16 w).pull16.1 = w := by
  have hsp : s.sp ≠ s.sp - 1 := by bv_omega
  have h : stackAddr s.sp ≠ stackAddr (s.sp - 1) := fun he => hsp (stackAddr_inj.1 he)
  calc (s.push16 w).pull16.1
      = wordOf ((s.push16 w).peek (stackAddr s.sp)) ((s.push16 w).peek (stackAddr (s.sp - 1))) := by
        simp only [State.push16, State.pull16_spec, State.push_sp, BitVec.sub_add_cancel]
    _ = wordOf (hiByte w) (loByte w) := by
        simp only [State.push16, State.peek_push, State.push_sp, if_neg h, if_true]
    _ = w := wordOf_bytes w

end Sys2Proof.Machine

namespace Sys2Proof.Claims

open Sys2Proof.Machine

/-! ### Repeated executions -/

/-- What holds of the state after `k` executions, for every `k`, when each execution completes and carries it on. -/
theorem times_keeps {i : Instr} {Inv : Nat → State → Prop}
    (keep : ∀ k t, Inv k t → ∃ u, exec i t = .next u ∧ Inv (k + 1) u) (n : Nat) {k : Nat} {s : State} (hs : Inv k s) :
    ∃ t, times i n s = .next t ∧ Inv (k + n) t := by
  induction n generalizing k s with
  | zero => exact ⟨s, rfl, hs⟩
  | succ n ih =>
    obtain ⟨u, hu, hk⟩ := keep k s hs
    obtain ⟨t, ht, hn⟩ := ih hk
    refine ⟨t, ?_, ?_⟩
    · simp only [times, hu, ht]
    · rwa [Nat.add_right_comm, Nat.add_assoc] at hn

theorem times_pha (n : Nat) (s : State) :
    ∃ t, times .pha n s = .next t ∧ t.sp = s.sp - BitVec.ofNat 8 n ∧ t.a = s.a := by
  have h := times_keeps (i := .pha) (Inv := fun k t => t.sp = s.sp - BitVec.ofNat 8 k ∧ t.a = s.a)
    (fun k t ⟨hsp, ha⟩ => ⟨_, rfl, by simp [hsp, BitVec.ofNat_add, BitVec.sub_sub], ha⟩)
    n (k := 0) (s := s) (by simp)
  rwa [Nat.zero_add] at h

theorem times_pla (n : Nat) (s : State) : ∃ t, times .pla n s = .next t ∧ t.sp = s.sp + BitVec.ofNat 8 n := by
  have h := times_keeps (i := .pla) (Inv := fun k t => t.sp = s.sp + BitVec.ofNat 8 k)
    (fun k t hsp => ⟨_, rfl, by simp [State.loadA, hsp, BitVec.ofNat_add, BitVec.add_assoc]⟩)
    n (k := 0) (s := s) (by simp)
  rwa [Nat.zero_add] at h

/-! ### Who writes a register or a flag -/

/-- The parameters of R8 have no writer (log 4). -/
def writesPar (_ : Instr) : Bool := false

/-- From `s` to `t` only what the instruction is a writer of has changed, and CLV has left V 0. PC, cyc, run and the bus are
not spoken of. -/
structure Kept (i : Instr) (s t : State) : Prop where
  a : writesA i = false → t.a = s.a
  x : writesX i = false → t.x = s.x
  y : writesY i = false → t.y = s.y
  sp : writesSp i = false → t.sp = s.sp
  par : writesPar i = false → t.par = s.par
  flagC : writesC i = false → t.p.c = s.p.c
  flagZ : writesNZ i = false → t.p.z = s.p.z
  flagN : writesNZ i = false → t.p.n = s.p.n
  flagV : writesV i = false → t.p.v = s.p.v
  flagI : writesI i = false → t.p.i = s.p.i
  flagD : writesD i = false → t.p.d = s.p.d
  flagB : writesB i = false → t.p.b = s.p.b
  clv : i = .clv → t.p.v = false

section Kept

variable {i : Instr} (s : State)

theorem Kept.refl (hi : i ≠ .clv) : Kept i s s where
  a _ := rfl
  x _ := rfl
  y _ := rfl
  sp _ := rfl
  par _ := rfl
  flagC _ := rfl
  flagZ _ := rfl
  flagN _ := rfl
  flagV _ := rfl
  flagI _ := rfl
  flagD _ := rfl
  flagB _ := rfl
  clv h := absurd h hi

/-! Each access class completes, and it keeps what the operation it is given keeps (R162): it changes PC, cyc and the bus
besides. -/

theorem registerClass_kept (cost : Nat) {op : State → State} (ho : ∀ t, Kept i t (op t)) :
    ∃ t, registerClass cost op s = .next t ∧ Kept i s t :=
  ⟨_, registerClass_next cost op s, { ho _ with }⟩

theorem readClass_kept (m : Mode) {op : Byte → State → State} (ho : ∀ v t, Kept i t (op v t)) :
    ∃ t, readClass m op s = .next t ∧ Kept i s t :=
  ⟨_, readClass_next m op s, { ho _ _ with }⟩

theorem writeClass_kept (m : Mode) (value : State → Byte) (h : Kept i s s) :
    ∃ t, writeClass m value s = .next t ∧ Kept i s t :=
  ⟨_, writeClass_next m value s, { h with }⟩

theorem modifyClass_kept (m : Mode) {micro : Byte → State → Byte × State} {after : Byte → State → State}
    (ho : ∀ e v t, Kept i t (after (micro v t).1 ((micro v t).2.memWrite e (micro v t).1))) :
    ∃ t, modifyClass m micro after s = .next t ∧ Kept i s t :=
  ⟨_, modifyClass_next m micro after s, { ho _ _ _ with }⟩

theorem branchClass_kept (taken : Bool) (d : Byte) (h : Kept i s s) :
    ∃ t, branchClass taken d s = .next t ∧ Kept i s t := by
  cases taken <;> exact ⟨_, rfl, { h with }⟩

theorem gated_kept (op : Byte) {meaning : State → Host.Outcome State Fault Refusal}
    (hm : ∃ t, meaning s = .next t ∧ Kept i s t) (h : Kept i s s) : ∃ t, gated op meaning s = .next t ∧ Kept i s t := by
  rw [gated_next]
  split
  · exact hm
  · exact ⟨_, rfl, { h with }⟩

end Kept

/-- Every instruction completes and changes nothing it is no writer of. In each access class a clause of Kept is empty for a
writer, and for every other instruction the class's operation does not touch the field. -/
theorem exec_kept (i : Instr) (s : State) : ∃ t, exec i s = .next t ∧ Kept i s t := by
  cases i with dsimp only [exec]
  | lda m | ldx m | ldy m | adc m | sbc m | and m | ora m | eor m | bit m | cmp m | cpx m | cpy m | lax m =>
    exact readClass_kept s m fun v t => by constructor <;> intro h <;> cases h <;> rfl
  | sta m | stx m | sty m | sax m => exact writeClass_kept s m _ (.refl s nofun)
  | inc m | dec m | asl m | lsr m | rol m | ror m | slo m | rla m | sre m | rra m | dcp m | isc m =>
    exact modifyClass_kept s m fun e v t => by constructor <;> intro h <;> cases h <;> rfl
  | tax | tay | txa | tya | tsx | txs | inx | iny | dex | dey | aslA | lsrA | rolA | rorA
  | clc | sec | cli | sei | cld | sed | clv | nop | pha | php | pla | plp =>
    exact registerClass_kept s _ fun t => by constructor <;> intro h <;> cases h <;> rfl
  | bpl d | bmi d | bvc d | bvs d | bcc d | bcs d | bne d | beq d => exact branchClass_kept s _ d (.refl s nofun)
  | nopImp op => exact gated_kept s op (registerClass_kept s 2 fun t => .refl t nofun) (.refl s nofun)
  | nopImm | nopZp | nopZpx | nopAbs | nopAbsx =>
    exact gated_kept s _ (readClass_kept s _ fun _ t => .refl t nofun) (.refl s nofun)
  | sbcEB v =>
    refine gated_kept s _ (readClass_kept s _ fun _ t => ?_) (.refl s nofun)
    constructor <;> intro h <;> cases h <;> rfl
  | jmp | jmpInd | jsr | rts | brk | rti | unimplemented =>
    refine ⟨_, rfl, ?_⟩
    constructor <;> intro h <;> cases h <;>
      simp [State.push16, State.pull16_spec, State.enterHandler_spec, State.returnFromHandler_spec]

/-! ### What no transition reads -/

/-- The parts of the state that the statements say are not read: the stored B (R48), D and I (R46, R47), cyc (R37). -/
inductive Hidden where
  | storedB | decimalAndInterrupt | cycles

/-- The state with the hidden part erased. -/
def Hidden.forget : Hidden → State → State
  | .storedB => forgetB
  | .decimalAndInterrupt => forgetDI
  | .cycles => forgetCyc

/-- An outcome with `f` applied to its next state. -/
def mapNext (f : State → State) : Host.Outcome State Fault Refusal → Host.Outcome State Fault Refusal
  | .next t => .next (f t)
  | .fault r => .fault r
  | .refused r => .refused r

theorem agree_iff_mapNext_eq {f : State → State} {o o' : Host.Outcome State Fault Refusal} :
    Agree f o o' ↔ mapNext f o = mapNext f o' := by
  cases o <;> cases o' <;> simp [Agree, mapNext]

/-- A transition that answers the same on a state and on what is left of it after forgetting answers the same on any two
states with the same rest. -/
theorem agree_of_forget {f : State → State} {F : State → Host.Outcome State Fault Refusal}
    (h : ∀ s, Agree f (F (f s)) (F s)) {s s' : State} (hs : f s = f s') : Agree f (F s) (F s') := by
  simp only [agree_iff_mapNext_eq] at h ⊢
  calc mapNext f (F s) = mapNext f (F (f s)) := (h s).symm
    _ = mapNext f (F (f s')) := by rw [hs]
    _ = mapNext f (F s') := h s'

namespace Hidden

section Forget

variable (H : Hidden) (s : State)

theorem forget_forget : H.forget (H.forget s) = H.forget s := by cases H <;> rfl
theorem forget_run : (H.forget s).run = s.run := by cases H <;> rfl
theorem forget_par : (H.forget s).par = s.par := by cases H <;> rfl
theorem forget_pcn (n : Nat) : (H.forget s).pcn n = s.pcn n := by cases H <;> rfl
theorem forget_newTransition : (H.forget s).newTransition = H.forget s.newTransition := by cases H <;> rfl
theorem forget_setPc (v : Addr) : (H.forget s).setPc v = H.forget (s.setPc v) := by cases H <;> rfl
theorem forget_push (v : Byte) : (H.forget s).push v = H.forget (s.push v) := by cases H <;> rfl
theorem forget_raiseUnimplemented (op : Byte) :
    (H.forget s).raiseUnimplemented op = H.forget (s.raiseUnimplemented op) := by cases H <;> rfl
theorem forget_memRead (a : Addr) : (H.forget s).memRead a = ((s.memRead a).1, H.forget (s.memRead a).2) := by
  cases H <;> rfl
theorem forget_memWrite (a : Addr) (v : Byte) : (H.forget s).memWrite a v = H.forget (s.memWrite a v) := by
  cases H <;> rfl
theorem forget_resolve (m : Mode) : (H.forget s).resolve m = ((s.resolve m).1, H.forget (s.resolve m).2) := by
  cases H <;> cases m <;> rfl
theorem forget_readOperand (m : Mode) :
    (H.forget s).readOperand m = ((s.readOperand m).1, H.forget (s.readOperand m).2) := by
  cases H <;> cases m <;> rfl
theorem forget_readPenalty (m : Mode) : (H.forget s).readPenalty m = s.readPenalty m := by
  cases H <;> cases m <;> rfl

theorem forget_fetch : (H.forget s).fetch = (s.fetch.1, H.forget s.fetch.2) := by
  have hpc : (H.forget s).pc = s.pc := by cases H <;> rfl
  simp only [State.fetch, forget_newTransition, forget_memRead, forget_par, hpc]
  split <;> rfl

theorem forget_addCycles {H : Hidden} {t u : State} (h : H.forget t = H.forget u) (n : Nat) :
    H.forget (t.addCycles n) = H.forget (u.addCycles n) := by
  cases H with
  | storedB | decimalAndInterrupt => exact congrArg (·.addCycles n) h
  | cycles => exact h

/-- I, which entering a handler sets, is the one part of P that it writes; it reads none. -/
theorem forget_enterHandler (ret : Addr) (status : Byte) (vec : Addr) :
    H.forget ((H.forget s).enterHandler ret status vec) = H.forget (s.enterHandler ret status vec) := by
  cases H <;> rfl

theorem forget_pushedByPhp {H : Hidden} (hH : H ≠ .decimalAndInterrupt) :
    pushedByPhp (H.forget s).p = pushedByPhp s.p := by
  cases H with
  | storedB => exact pushedByPhp_ignores_b s.p
  | decimalAndInterrupt => exact absurd rfl hH
  | cycles => rfl

theorem forget_pushedByNmi {H : Hidden} (hH : H ≠ .decimalAndInterrupt) :
    pushedByNmi (H.forget s).p = pushedByNmi s.p := by
  cases H with
  | storedB => exact pushedByNmi_ignores_b s.p
  | decimalAndInterrupt => exact absurd rfl hH
  | cycles => rfl

end Forget

section Agree

variable {H : Hidden} (s : State)

/-! An access class does not read the hidden part when the operation it is given does not (R162). -/

theorem registerClass_agree (cost : Nat) {op : State → State}
    (ho : ∀ t, H.forget (op (H.forget t)) = H.forget (op t)) :
    Agree H.forget (registerClass cost op (H.forget s)) (registerClass cost op s) := by
  simp only [registerClass, Agree, forget_pcn, forget_setPc]
  exact forget_addCycles (ho _) cost

theorem readClass_agree (m : Mode) {op : Byte → State → State}
    (ho : ∀ v t, H.forget (op v (H.forget t)) = H.forget (op v t)) :
    Agree H.forget (readClass m op (H.forget s)) (readClass m op s) := by
  simp only [readClass, Agree, forget_readOperand, forget_pcn, forget_setPc, forget_readPenalty]
  exact forget_addCycles (ho _ _) _

theorem writeClass_agree (m : Mode) {value : State → Byte} (hv : ∀ t, value (H.forget t) = value t) :
    Agree H.forget (writeClass m value (H.forget s)) (writeClass m value s) := by
  simp only [writeClass, Agree, forget_resolve, forget_pcn, forget_setPc, hv, forget_memWrite]
  exact forget_addCycles (forget_forget _ _) _

theorem modifyClass_agree (m : Mode) {micro : Byte → State → Byte × State} {after : Byte → State → State}
    (hm : ∀ v t, micro v (H.forget t) = ((micro v t).1, H.forget (micro v t).2))
    (ha : ∀ v t, H.forget (after v (H.forget t)) = H.forget (after v t)) :
    Agree H.forget (modifyClass m micro after (H.forget s)) (modifyClass m micro after s) := by
  simp only [modifyClass, Agree, forget_resolve, forget_memRead, forget_pcn, forget_setPc, hm, forget_memWrite]
  exact forget_addCycles (ha _ _) _

theorem branchClass_agree (taken : Bool) (d : Byte) :
    Agree H.forget (branchClass taken d (H.forget s)) (branchClass taken d s) := by
  cases taken <;> cases H <;> exact Eq.refl _

theorem gated_agree (op : Byte) {meaning : State → Host.Outcome State Fault Refusal}
    (hm : Agree H.forget (meaning (H.forget s)) (meaning s)) :
    Agree H.forget (gated op meaning (H.forget s)) (gated op meaning s) := by
  rw [gated_next, gated_next, forget_par]
  split
  · exact hm
  · simp only [Agree, forget_raiseUnimplemented, forget_forget]

/-- No instruction reads the hidden part, but for the two that push D and I. -/
theorem exec_agree (i : Instr) (hi : H = .decimalAndInterrupt → i ≠ .php ∧ i ≠ .brk) :
    Agree H.forget (exec i (H.forget s)) (exec i s) := by
  cases i with dsimp only [exec]
  | lda m | ldx m | ldy m | adc m | sbc m | and m | ora m | eor m | bit m | cmp m | cpx m | cpy m | lax m =>
    exact readClass_agree s m fun _ _ => by cases H <;> rfl
  | sta m | stx m | sty m | sax m => exact writeClass_agree s m fun _ => by cases H <;> rfl
  | inc m | dec m | asl m | lsr m | rol m | ror m | slo m | rla m | sre m | rra m | dcp m | isc m =>
    exact modifyClass_agree s m (fun _ _ => by cases H <;> rfl) (fun _ _ => by cases H <;> rfl)
  | tax | tay | txa | tya | tsx | txs | inx | iny | dex | dey | aslA | lsrA | rolA | rorA
  | clc | sec | cli | sei | cld | sed | clv | nop | pha | pla | plp =>
    exact registerClass_agree s _ fun _ => by cases H <;> rfl
  | bpl d | bmi d | bvc d | bvs d | bcc d | bcs d | bne d | beq d => cases H <;> exact branchClass_agree s _ d
  | jmp | jmpInd | jsr | rts | rti | unimplemented => cases H <;> exact Eq.refl _
  | nopImp op => exact gated_agree s op (registerClass_agree s 2 fun t => forget_forget H t)
  | nopImm | nopZp | nopZpx | nopAbs | nopAbsx =>
    exact gated_agree s _ (readClass_agree s _ fun _ t => forget_forget H t)
  | sbcEB v => exact gated_agree s _ (readClass_agree s _ fun _ _ => by cases H <;> rfl)
  | php =>
    have hH : H ≠ .decimalAndInterrupt := fun h => (hi h).1 rfl
    exact registerClass_agree s 3 fun t => by rw [forget_pushedByPhp t hH, forget_push, forget_forget]
  | brk =>
    cases H with
    | storedB | cycles => exact Eq.refl _
    | decimalAndInterrupt => exact absurd rfl (hi rfl).2

theorem step_agree (hH : H ≠ .decimalAndInterrupt) : Agree H.forget (step (H.forget s)) (step s) := by
  simp only [step, forget_run, State.fetchInstr, State.fetched, forget_fetch]
  cases s.run with
  | running => exact exec_agree _ _ fun h => absurd h hH
  | faulted op pc0 => exact Eq.refl _

theorem whenRunning_agree {f : State → State} (hf : ∀ t, H.forget (f (H.forget t)) = H.forget (f t)) :
    Agree H.forget (whenRunning (H.forget s) f) (whenRunning s f) := by
  simp only [whenRunning, forget_run, forget_newTransition]
  cases s.run with
  | running => exact hf _
  | faulted op pc0 => exact Eq.refl _

theorem nmiCall_agree (hH : H ≠ .decimalAndInterrupt) : Agree H.forget (nmiCall (H.forget s)) (nmiCall s) :=
  whenRunning_agree s fun t => by
    have hpc : (H.forget t).pc = t.pc := by cases H <;> rfl
    rw [forget_pushedByNmi t hH, hpc]
    exact forget_addCycles (forget_enterHandler H t _ _ _) 7

theorem resetCall_agree : Agree H.forget (resetCall (H.forget s)) (resetCall s) :=
  whenRunning_agree s fun t => by cases H <;> rfl

/-- Neither a step nor an NMI nor a reset reads the hidden part. -/
theorem transitions_agree (hH : H ≠ .decimalAndInterrupt) {s s' : State} (hs : H.forget s = H.forget s') :
    Agree H.forget (step s) (step s') ∧ Agree H.forget (nmiCall s) (nmiCall s') ∧
    Agree H.forget (resetCall s) (resetCall s') :=
  ⟨agree_of_forget (step_agree · hH) hs, agree_of_forget (nmiCall_agree · hH) hs, agree_of_forget resetCall_agree hs⟩

end Agree

end Hidden

/-! ### The statements -/

/-- Settles O29: the word by its two slots, SP by two decrements and two increments; Pull16's order is its definition. -/
theorem pushWordPullWord : Obligations.PushWordPullWord :=
  fun s w => ⟨pull16_push16_value s w, pull16_push16_sp s w, fun _ => ⟨rfl, rfl⟩⟩

/-- Settles O30: after n pushes SP is n lower mod 256, after n pulls n higher, here with n = 256. -/
theorem stackPointerWraps : Obligations.StackPointerWraps := by
  intro s
  obtain ⟨t, ht, hsp, ha⟩ := times_pha 256 s
  obtain ⟨u, hu, hup⟩ := times_pla 256 s
  exact ⟨⟨t, ht, by simpa using hsp, ha⟩, ⟨u, hu, by simpa using hup⟩⟩

/-- Settles O53: the register clauses of what every instruction keeps. -/
theorem registerWriters : Obligations.RegisterWriters := by
  intro i s
  obtain ⟨t, ht, h⟩ := exec_kept i s
  exact ⟨t, ht, h.a, h.x, h.y, h.sp, h.par rfl⟩

/-- Settles O54: the flag clauses of what every instruction keeps. -/
theorem flagWriters : Obligations.FlagWriters := by
  intro i s
  obtain ⟨t, ht, h⟩ := exec_kept i s
  exact ⟨t, ht, h.flagC, fun hw => ⟨h.flagZ hw, h.flagN hw⟩, h.flagV, h.flagI, h.flagD, h.flagB, h.clv⟩

/-- Settles O56: each pushed status byte has its bit 4 fixed, and nothing else looks at the stored B. -/
theorem storedBreakIsUnobservable : Obligations.StoredBreakIsUnobservable :=
  fun _ _ => Hidden.transitions_agree (H := .storedB) nofun

/-- Settles O57: an instruction's outcome on a state is that on the state with D and I erased. -/
theorem decimalAndInterruptGateNothing : Obligations.DecimalAndInterruptGateNothing :=
  fun i _ _ hphp hbrk =>
    agree_of_forget fun s => Hidden.exec_agree (H := .decimalAndInterrupt) s i fun _ => ⟨hphp, hbrk⟩

/-- Settles O58: cyc is added to and never looked at. -/
theorem cycleCounterIsNeverRead : Obligations.CycleCounterIsNeverRead :=
  fun _ _ => Hidden.transitions_agree (H := .cycles) nofun

/-- Settles O2: each of the three answers by the run state first. -/
theorem faultedCoreAcceptsNothing : Obligations.FaultedCoreAcceptsNothing := by
  intro s op pc0 h
  simp only [step, nmiCall, resetCall, whenRunning, h, and_self]

/-- Settles O9: a zero-page address is a byte widened, a stack slot 256 more than one. -/
theorem zeroPageAndStackStayInPage : Obligations.ZeroPageAndStackStayInPage :=
  fun s b => ⟨⟨zeroPage_lt b 0, zeroPage_lt b s.x, zeroPage_lt b s.y⟩, stackAddr_toNat b⟩

/-- Settles O28: on the reference bus the three are the operations' definitions. -/
theorem pushAndPull : Obligations.PushAndPull :=
  fun _ _ _ => ⟨rfl, rfl, rfl⟩

/-- Settles O33: the layout over the seven flags, and the inverse over the flags and over the byte. -/
theorem statusByteLayout : Obligations.StatusByteLayout :=
  ⟨fun p => ⟨pack_layout p, unpack_pack p, pack_bit5 p⟩, fun v => ⟨pack_unpack v, unpack_flip_bit5 v⟩⟩

end Sys2Proof.Claims
end

section
/-! PROOFS. The family 20_memory: the storage and the launch image (O47, O50, O52), what an instruction stores to (O55),
every transition is its transactions (O60), and a step is exec of the instruction at PC (O1). -/

namespace Sys2Proof.Machine

/-! ### Consecutive bytes in storage (R375) -/

/-- The first byte is stored at `n`, the others load upward from `n + 1`. -/
theorem Memory.load_cons {n : Nat} (hn : n < 65536) (m : Memory) (v : Byte) (vs : List Byte) :
    m.load (BitVec.ofNat 16 n) (v :: vs) = (m.write n v).load (BitVec.ofNat 16 (n + 1)) vs := by
  have hn' : (BitVec.ofNat 16 n).toNat = n := Nat.mod_eq_of_lt hn
  rw [Memory.load, hn', BitVec.ofNat_add]
  rfl

/-- Loading upward from `n`, without a wrap, leaves the cells below `n` alone. -/
theorem Memory.read_load_below {m : Memory} {bytes : List Byte} {n a : Nat} (hn : n + bytes.length ≤ 65536) (ha : a < n) :
    (m.load (BitVec.ofNat 16 n) bytes).read a = m.read a := by
  induction bytes generalizing m n with
  | nil => rfl
  | cons v vs ih =>
    rw [List.length_cons] at hn
    rw [Memory.load_cons (by omega), ih (by omega) (by omega), Memory.read_write, if_neg (by omega)]

/-- Byte `k` loaded upward from `n`, without a wrap, stands at `n + k`: the later bytes are stored above it. -/
theorem Memory.read_load_getElem {m : Memory} {bytes : List Byte} {n k : Nat} (hn : n + bytes.length ≤ 65536)
    (hk : k < bytes.length) : (m.load (BitVec.ofNat 16 n) bytes).read (n + k) = bytes[k] := by
  induction bytes generalizing m n k with
  | nil => cases hk
  | cons v vs ih =>
    rw [List.length_cons] at hn hk
    rw [Memory.load_cons (by omega)]
    cases k with
    | zero =>
      rw [Memory.read_load_below (by omega) (by omega), Memory.read_write, if_pos (Nat.add_zero n),
        List.getElem_cons_zero]
    | succ k =>
      have hk' : n + (k + 1) = n + 1 + k := by omega
      rw [hk', ih (by omega) (by omega), List.getElem_cons_succ]

/-- The image's base address as a number, 65536 for the empty image. -/
theorem launchImage_eq_load {prog : List Byte} (h : prog.length ≤ 65536) :
    launchImage prog = Memory.load [] (BitVec.ofNat 16 (65536 - prog.length)) prog := by
  rw [launchImage]
  congr 1
  bv_omega

/-! ### What an instruction stores to (R162) -/

/-- From `s` to `t` only bytes at the listed addresses have changed. -/
def UnchangedOutside (l : List Addr) (s t : State) : Prop := ∀ a, a ∉ l → t.peek a = s.peek a

@[simp] theorem State.pull16_mem (s : State) : s.pull16.2.mem = s.mem := by
  rw [State.pull16_spec, State.pull_mem, State.pull_mem]

@[simp] theorem State.returnFromHandler_mem (s : State) : s.returnFromHandler.mem = s.mem := by
  rw [State.returnFromHandler_spec]

section Frame

variable {l : List Addr} {s : State}

theorem UnchangedOutside.of_mem {t : State} (h : t.mem = s.mem) : UnchangedOutside l s t :=
  fun a _ => State.peek_congr h a

theorem UnchangedOutside.memWrite {t : State} (h : UnchangedOutside l s t) {a : Addr} (ha : a ∈ l) (v : Byte) :
    UnchangedOutside l s (t.memWrite a v) := by
  intro b hb
  have hne : b ≠ a := fun he => hb (he ▸ ha)
  rw [State.peek_memWrite, if_neg hne, h b hb]

theorem UnchangedOutside.push {t : State} (h : UnchangedOutside l s t) (hsp : stackAddr t.sp ∈ l) (v : Byte) :
    UnchangedOutside l s (t.push v) :=
  h.memWrite hsp v

theorem State.push16_unchangedOutside (s : State) (w : Addr) :
    UnchangedOutside [stackAddr s.sp, stackAddr (s.sp - 1)] s (s.push16 w) :=
  UnchangedOutside.push (t := s.push _) (.push (.of_mem rfl) (by simp) _) (by simp) _

/-- After the three pushes a handler's entry only reads (R290, R342). -/
theorem State.enterHandler_unchangedOutside (s : State) (ret : Addr) (status : Byte) (vec : Addr) :
    UnchangedOutside [stackAddr s.sp, stackAddr (s.sp - 1), stackAddr (s.sp - 1 - 1)] s
      (s.enterHandler ret status vec) := by
  have h : UnchangedOutside [stackAddr s.sp, stackAddr (s.sp - 1), stackAddr (s.sp - 1 - 1)] s (s.push16 ret) :=
    fun a ha => s.push16_unchangedOutside ret a (by simp_all)
  have hmem : (s.enterHandler ret status vec).mem = ((s.push16 ret).push status).mem := by
    rw [State.enterHandler_spec, State.push16]
  exact fun a ha => (State.peek_congr hmem a).trans (h.push (by simp [State.push16]) status a ha)

/-! Each access class completes; the operation it is given leaves the storage alone, so that the class alone stores (R162). -/

theorem registerClass_stores_nothing (cost : Nat) {op : State → State} (ho : ∀ t, (op t).mem = t.mem) :
    ∃ t, registerClass cost op s = .next t ∧ UnchangedOutside l s t :=
  ⟨_, registerClass_next cost op s, .of_mem (ho _)⟩

theorem readClass_stores_nothing (m : Mode) {op : Byte → State → State} (ho : ∀ v t, (op v t).mem = t.mem) :
    ∃ t, readClass m op s = .next t ∧ UnchangedOutside l s t :=
  ⟨_, readClass_next m op s, .of_mem (ho _ _)⟩

theorem writeClass_stores (m : Mode) (value : State → Byte) :
    ∃ t, writeClass m value s = .next t ∧ UnchangedOutside [(s.resolve m).1] s t :=
  ⟨_, writeClass_next m value s, UnchangedOutside.memWrite (.of_mem rfl) (List.mem_singleton.2 rfl) _⟩

theorem modifyClass_stores (m : Mode) {micro : Byte → State → Byte × State} {after : Byte → State → State}
    (hm : ∀ v t, (micro v t).2.mem = t.mem) (ha : ∀ v t, (after v t).mem = t.mem) :
    ∃ t, modifyClass m micro after s = .next t ∧ UnchangedOutside [(s.resolve m).1] s t := by
  refine ⟨_, modifyClass_next m micro after s, fun a h => ?_⟩
  rw [State.addCycles_peek, State.peek_congr (ha _ _)]
  exact UnchangedOutside.memWrite (.of_mem (hm _ _)) (List.mem_singleton.2 rfl) _ a h

theorem branchClass_stores_nothing (taken : Bool) (d : Byte) :
    ∃ t, branchClass taken d s = .next t ∧ UnchangedOutside l s t := by
  cases taken <;> exact ⟨_, rfl, .of_mem rfl⟩

theorem gated_stores_nothing (op : Byte) {meaning : State → Host.Outcome State Fault Refusal}
    (hm : ∃ t, meaning s = .next t ∧ UnchangedOutside l s t) :
    ∃ t, gated op meaning s = .next t ∧ UnchangedOutside l s t := by
  rw [gated_next]
  split
  · exact hm
  · exact ⟨_, rfl, .of_mem rfl⟩

end Frame

end Sys2Proof.Machine

namespace Sys2Proof

/-! ### What the opcode byte fixes (R100, R133) -/

/-- The operand changes neither an entry's length, which its kind gives, nor its opcode byte, nor whether it is absent. -/
def Entry.FixedByKind : Entry → Prop
  | .absent => True
  | .one i => i.len = 1
  | .two f => ∀ b, (f b).len = 2 ∧ (f b).opcode = (f 0).opcode ∧ ∀ par, (f b).isAbsent par = (f 0).isAbsent par
  | .three f => ∀ w, (f w).len = 3 ∧ (f w).opcode = (f 0).opcode ∧ ∀ par, (f w).isAbsent par = (f 0).isAbsent par

/-- Entry by entry: each names one constructor, and in the modes one constructor of Mode, whatever the operand is. -/
theorem opcodeMap_fixedByKind : ∀ row ∈ opcodeMap, ∀ e ∈ row, e.FixedByKind := by
  simp [opcodeMap, mapRow0, mapRow1, mapRow2, mapRow3, mapRow4, mapRow5, mapRow6, mapRow7, mapRow8, mapRow9, mapRowA,
    mapRowB, mapRowC, mapRowD, mapRowE, mapRowF, Entry.FixedByKind, Instr.len, Mode.len, Mode.tag, ModeTag.len,
    Instr.opcode, Mode.opcode, Instr.isAbsent]

/-- What holds of every element and of the default holds of every lookup. -/
theorem getD_of_forall_mem {α : Type} {P : α → Prop} {l : List α} {d : α} (hl : ∀ x ∈ l, P x) (hd : P d) (n : Nat) :
    P (l.getD n d) := by
  rw [List.getD_eq_getElem?_getD]
  cases h : l[n]? with
  | none => exact hd
  | some x => exact hl x (List.mem_of_getElem? h)

theorem opcodeEntry_fixedByKind (op : Byte) : (opcodeEntry op).FixedByKind := by
  have hrow : ∀ e ∈ opcodeMap.getD (op.toNat / 16) [], e.FixedByKind :=
    getD_of_forall_mem (P := fun row => ∀ e ∈ row, Entry.FixedByKind e) opcodeMap_fixedByKind (by simp) _
  exact getD_of_forall_mem (P := Entry.FixedByKind) (d := .absent) hrow trivial _

theorem decodeAt_zero_opcode (op : Byte) : (decodeAt op 0 0).opcode = op := by
  revert op
  decide

theorem decodeAt_fixedByOpcode (op b1 b2 : Byte) :
    (decodeAt op b1 b2).len = opcodeLen op ∧ (decodeAt op b1 b2).opcode = op ∧
    ∀ par, (decodeAt op b1 b2).isAbsent par = (decodeAt op 0 0).isAbsent par := by
  have hentry := opcodeEntry_fixedByKind op
  have hzero := decodeAt_zero_opcode op
  unfold decodeAt opcodeLen at *
  cases h : opcodeEntry op with simp only [h, Entry.FixedByKind] at hentry hzero ⊢
  | absent => simp [Instr.len, Instr.opcode]
  | one i => simp [hentry, hzero]
  | two f =>
    obtain ⟨hlen, hop, habs⟩ := hentry b1
    exact ⟨hlen, hop.trans hzero, habs⟩
  | three f =>
    obtain ⟨hlen, hop, habs⟩ := hentry (wordOf b2 b1)
    exact ⟨hlen, hop.trans hzero, habs⟩

theorem decodeAt_len (op b1 b2 : Byte) : (decodeAt op b1 b2).len = opcodeLen op := (decodeAt_fixedByOpcode op b1 b2).1

theorem decodeAt_opcode (op b1 b2 : Byte) : (decodeAt op b1 b2).opcode = op := (decodeAt_fixedByOpcode op b1 b2).2.1

theorem decodeAt_isAbsent (par : Params) (op b1 b2 : Byte) :
    (decodeAt op b1 b2).isAbsent par = (decodeAt op 0 0).isAbsent par := (decodeAt_fixedByOpcode op b1 b2).2.2 par

theorem opcodeLen_bounds (op : Byte) : 1 ≤ opcodeLen op ∧ opcodeLen op ≤ 3 := by
  unfold opcodeLen
  split <;> decide

theorem decodeAt_of_opcodeLen_eq_one {op : Byte} (h : opcodeLen op = 1) (b1 b2 : Byte) :
    decodeAt op b1 b2 = decodeAt op 0 0 := by
  unfold decodeAt opcodeLen at *
  cases hop : opcodeEntry op with simp only [hop] at h ⊢
  | two | three => cases h

theorem decodeAt_of_opcodeLen_eq_two {op : Byte} (h : opcodeLen op = 2) (b1 b2 : Byte) :
    decodeAt op b1 b2 = decodeAt op b1 0 := by
  unfold decodeAt opcodeLen at *
  cases hop : opcodeEntry op with simp only [hop] at h ⊢
  | three => cases h

namespace Machine

/-! ### An absent opcode byte (R310, R331) -/

theorem gated_shut {s : State} (h : s.par.extraUnofficial = false) (op : Byte)
    (meaning : State → Host.Outcome State Fault Refusal) : gated op meaning s = .next (s.raiseUnimplemented op) := by
  simp [gated_next, h]

/-- An absent instruction's operand is not looked at: its meaning is the fault of its opcode byte. -/
theorem exec_of_isAbsent {i : Instr} {s : State} (h : i.isAbsent s.par = true) :
    exec i s = .next (s.raiseUnimplemented i.opcode) := by
  cases i with
  | unimplemented op => rfl
  | nopImp | nopImm | nopZp | nopZpx | nopAbs | nopAbsx | sbcEB =>
    exact gated_shut (by simpa [Instr.isAbsent] using h) _ _
  | _ => cases h

/-! ### The fetch on the reference bus (R66, R150) -/

/-- The fetch reads the opcode byte and as many bytes after it as the opcode byte says (R66, R331). -/
theorem operandCount_eq (par : Params) (op b1 b2 : Byte) :
    operandCount par op = if (decodeAt op b1 b2).isAbsent par then 0 else opcodeLen op - 1 := by
  rw [operandCount, Instr.fetchLen, decodeAt_isAbsent par op b1 b2, decodeAt_len]
  split <;> rfl

theorem operandCount_add_one (par : Params) (op b1 b2 : Byte) :
    operandCount par op + 1 = if (decodeAt op b1 b2).isAbsent par then 1 else (decodeAt op b1 b2).len := by
  have hlen := opcodeLen_bounds op
  rw [operandCount_eq par op b1 b2, decodeAt_len]
  split <;> omega

theorem operandCount_le_two (par : Params) (op : Byte) : operandCount par op ≤ 2 := by
  have hlen := opcodeLen_bounds op
  rw [operandCount_eq par op 0 0]
  split <;> omega

/-- Without operand reads the operand bytes make no difference: there are none, or the opcode byte is absent. -/
theorem exec_decodeAt_of_operandCount_eq_zero {t : State} {op : Byte} (h : operandCount t.par op = 0) (b1 b2 : Byte) :
    exec (decodeAt op b1 b2) t = exec (decodeAt op 0 0) t := by
  by_cases habs : (decodeAt op b1 b2).isAbsent t.par = true
  · have habs0 : (decodeAt op 0 0).isAbsent t.par = true := (decodeAt_isAbsent ..).symm.trans habs
    rw [exec_of_isAbsent habs, exec_of_isAbsent habs0, decodeAt_opcode, decodeAt_opcode]
  · have hlen := opcodeLen_bounds op
    rw [operandCount_eq t.par op b1 b2, if_neg habs] at h
    rw [decodeAt_of_opcodeLen_eq_one (by omega)]

/-- With one operand read the second operand byte makes no difference. -/
theorem decodeAt_of_operandCount_eq_one {par : Params} {op : Byte} (h : operandCount par op = 1) (b1 b2 : Byte) :
    decodeAt op b1 b2 = decodeAt op b1 0 := by
  rw [operandCount_eq par op b1 b2] at h
  split at h
  · cases h
  · exact decodeAt_of_opcodeLen_eq_two (by omega) b1 b2

/-- The fetch's bus transactions are its reads, and it changes nothing else. -/
theorem State.fetched_spec (s : State) :
    s.fetched = { s with bus := Claims.fetchReads s (operandCount s.par (s.peek s.pc) + 1) } := by
  have hbus : s.fetched.bus = Claims.fetchReads s (operandCount s.par (s.peek s.pc) + 1) := by
    have hle := operandCount_le_two s.par (s.peek s.pc)
    obtain h | h | h : operandCount s.par (s.peek s.pc) = 0 ∨ operandCount s.par (s.peek s.pc) = 1 ∨
        operandCount s.par (s.peek s.pc) = 2 := by omega
    all_goals simp [State.fetched, State.fetch, Claims.fetchReads, List.range_succ, h]
  rw [State.fetched_state, hbus]

/-- The fetched instruction does what the three bytes at PC decode to, the bytes not read being unused. -/
theorem exec_fetchInstr {s t : State} (ht : t.par = s.par) :
    exec s.fetchInstr t = exec (decodeAt (s.peek s.pc) (s.peek (s.pc + 1)) (s.peek (s.pc + 2))) t := by
  simp only [State.fetchInstr, State.fetch, State.memRead_value, State.newTransition_peek, State.memRead_peek]
  rw [← ht]
  split
  next h => exact (exec_decodeAt_of_operandCount_eq_zero h _ _).symm
  next h => exact congrArg (exec · t) (decodeAt_of_operandCount_eq_one h _ _).symm
  next => rfl

theorem step_of_running {s : State} (hr : s.run = .running) : step s = exec s.fetchInstr s.fetched := by
  simp only [step, hr]

end Machine

/-- Three bytes hold every instruction. -/
theorem decode_three_bytes (op b1 b2 : Byte) : ∃ rest, decode [op, b1, b2] = .ok (decodeAt op b1 b2, rest) := by
  have hlen := (opcodeLen_bounds op).2
  exact ⟨_, if_pos hlen⟩

end Sys2Proof

namespace Sys2Proof.Claims

open Sys2Proof.Machine

/-- Every instruction completes and changes no byte but those it stores to. Below the access classes stand the instructions
that reach memory through the stack, a vector or a pointer. -/
theorem exec_unchangedOutside_stored (i : Instr) (s : State) :
    ∃ t, exec i s = .next t ∧ UnchangedOutside (stored s i) s t := by
  cases i with dsimp only [exec, stored]
  | lda m | ldx m | ldy m | adc m | sbc m | and m | ora m | eor m | bit m | cmp m | cpx m | cpy m | lax m =>
    exact readClass_stores_nothing m fun _ _ => rfl
  | sta m | stx m | sty m | sax m => exact writeClass_stores m _
  | inc m | dec m | asl m | lsr m | rol m | ror m | slo m | rla m | sre m | rra m | dcp m | isc m =>
    exact modifyClass_stores m (fun _ _ => rfl) (fun _ _ => rfl)
  | tax | tay | txa | tya | tsx | txs | inx | iny | dex | dey | aslA | lsrA | rolA | rorA
  | clc | sec | cli | sei | cld | sed | clv | nop | pla | plp =>
    exact registerClass_stores_nothing _ fun _ => rfl
  | bpl d | bmi d | bvc d | bvs d | bcc d | bcs d | bne d | beq d => exact branchClass_stores_nothing _ d
  | nopImp op => exact gated_stores_nothing op (registerClass_stores_nothing 2 fun _ => rfl)
  | nopImm | nopZp | nopZpx | nopAbs | nopAbsx | sbcEB =>
    exact gated_stores_nothing _ (readClass_stores_nothing _ fun _ _ => rfl)
  | jmp | jmpInd | unimplemented => exact ⟨_, rfl, .of_mem rfl⟩
  | rts | rti => exact ⟨_, rfl, .of_mem (by simp)⟩
  | pha | php =>
    exact ⟨_, registerClass_next 3 _ s, UnchangedOutside.push (t := { s with pc := s.pc + 1 }) (.of_mem rfl) (by simp) _⟩
  | jsr w => exact ⟨_, rfl, State.push16_unchangedOutside s _⟩
  | brk =>
    refine ⟨_, rfl, fun a ha => ?_⟩
    rw [State.addCycles_peek]
    exact State.enterHandler_unchangedOutside (s.setP { s.p with b := true }) _ _ _ a ha

/-! ### The statements -/

/-- Settles O47: the image loads upward from `65536 - len` without a wrap, into empty storage. -/
theorem launchImageBytes : Obligations.LaunchImageBytes := by
  intro prog h
  rw [launchImage_eq_load h]
  refine ⟨fun k hk => Memory.read_load_getElem (by omega) hk, fun a ha => Memory.read_load_below (by omega) ha, ?_⟩
  exact Memory.wf_load _ _ _ Memory.wf_nil

/-- Settles O55: by access class, with the stack instructions' pushes apart. -/
theorem memoryFrame : Obligations.MemoryFrame := exec_unchangedOutside_stored

/-- Settles O60: the three transitions of a running CORE keep the trace that begins with them. -/
theorem everyTransitionIsItsTransactions : Obligations.EveryTransitionIsItsTransactions :=
  fun _ _ hr => ⟨stepOn_traced hr, nmiCall_traced hr, resetCall_traced hr⟩

/-- Settles O1: the step is exec of the fetched instruction after the fetch's reads; the instruction does what all three bytes
decode to, since a byte the fetch does not read is not used. -/
theorem stepRunsDecodedInstruction : Obligations.StepRunsDecodedInstruction := by
  intro s hr
  refine ⟨?_, decode_three_bytes _ _ _⟩
  have hpar : s.fetched.par = s.par := by rw [State.fetched_state]
  rw [step_of_running hr, exec_fetchInstr hpar, State.fetched_spec,
    operandCount_add_one _ _ (s.peek (s.pc + 1)) (s.peek (s.pc + 2))]

/-- Settles O50: the bus operations by the storage's read after write. -/
theorem readAfterWrite : Obligations.ReadAfterWrite :=
  ⟨fun s a b v => ⟨s.peek_memWrite a b v, s.memRead_value a, s.memRead_peek a b⟩, Memory.read_write, Memory.read_nil⟩

/-- Settles O52: at reset the storage is empty. -/
theorem resetMemoryCanonical : Obligations.ResetMemoryCanonical := Memory.wf_nil

end Sys2Proof.Claims
end

section
/-! PROOFS. The family 30_encoding: decoding and encoding (O3, O4, O5, O6, O7), the effective addresses (O8), branch targets
(O10) and jumps (O25). The decoder's map and the encoder's lists are compared once from each side: cell by cell along the map,
and constructor by constructor along the lists. -/

namespace Sys2Proof

open Sys2Proof.Machine

/-! ### From the map to the lists (R120, R132) -/

/-- The instructions of a cell have as operand bytes exactly the bytes they are made from, and are encodings. -/
def Entry.EncodesBack : Entry → Prop
  | .absent => True
  | .one i => i.operandBytes = [] ∧ i.wellFormed = true
  | .two f => ∀ b, (f b).operandBytes = [b] ∧ (f b).wellFormed = true
  | .three f => ∀ w, (f w).operandBytes = [loByte w, hiByte w] ∧ (f w).wellFormed = true

/-- Cell by cell: each names one constructor, in one mode where it has modes. -/
theorem opcodeMap_encodesBack : ∀ row ∈ opcodeMap, ∀ e ∈ row, e.EncodesBack := by
  simp [opcodeMap, mapRow0, mapRow1, mapRow2, mapRow3, mapRow4, mapRow5, mapRow6, mapRow7, mapRow8, mapRow9, mapRowA,
    mapRowB, mapRowC, mapRowD, mapRowE, mapRowF, Entry.EncodesBack, Instr.operandBytes, Mode.bytes, Instr.wellFormed,
    Mode.isOneOf, Mode.tag, modesFull, modesNoImm, modesModify, modesLdx, modesLdy, modesStx, modesSty, modesBit,
    modesCompare, modesLax, modesSax, opsNopImp, opsNopImm, opsNopZp, opsNopZpx, opsNopAbsx]

/-- What holds of every cell of the map and of an absent one holds of every opcode byte's cell. -/
theorem opcodeEntry_of_forall_cell {P : Entry → Prop} (hmap : ∀ row ∈ opcodeMap, ∀ e ∈ row, P e) (habsent : P .absent)
    (op : Byte) : P (opcodeEntry op) :=
  getD_of_forall_mem
    (getD_of_forall_mem (P := fun row => ∀ e ∈ row, P e) hmap (List.forall_mem_nil P) _) habsent _

theorem opcodeEntry_encodesBack (op : Byte) : (opcodeEntry op).EncodesBack :=
  opcodeEntry_of_forall_cell opcodeMap_encodesBack trivial op

/-- The bytes the map leaves absent are the listed ones (R131). -/
theorem mem_opsAbsent_of_decodeAt {op : Byte} (h : decodeAt op 0 0 = .unimplemented op) : op ∈ opsAbsent := by
  revert op
  decide

theorem decodeAt_wellFormed (op b1 b2 : Byte) : (decodeAt op b1 b2).wellFormed = true := by
  have hentry := opcodeEntry_encodesBack op
  unfold decodeAt
  cases h : opcodeEntry op with simp only [h, Entry.EncodesBack] at hentry ⊢
  | absent => simpa [Instr.wellFormed] using mem_opsAbsent_of_decodeAt (op := op) (by simp [decodeAt, h])
  | one i => exact hentry.2
  | two f => exact (hentry b1).2
  | three f => exact (hentry _).2

theorem decodeAt_operandBytes (op b1 b2 : Byte) :
    (decodeAt op b1 b2).operandBytes = [b1, b2].take (opcodeLen op - 1) := by
  have hentry := opcodeEntry_encodesBack op
  unfold decodeAt opcodeLen
  cases h : opcodeEntry op with simp only [h, Entry.EncodesBack] at hentry ⊢
  | absent => rfl
  | one i => exact hentry.1
  | two f => exact (hentry b1).1
  | three f => rw [(hentry _).1, loByte_wordOf, hiByte_wordOf]; rfl

theorem encode_decodeAt (op b1 b2 : Byte) : encode (decodeAt op b1 b2) = [op, b1, b2].take (opcodeLen op) := by
  have hlen := (opcodeLen_bounds op).1
  rw [encode, decodeAt_opcode, decodeAt_operandBytes, ← List.take_succ_cons, Nat.sub_add_cancel hlen]

/-- Of the bytes an instruction is decoded from the decoder takes as many as its opcode byte says, and no other byte. -/
theorem decode_take_append (op b1 b2 : Byte) (rest : List Byte) :
    decode ([op, b1, b2].take (opcodeLen op) ++ rest) = .ok (decodeAt op b1 b2, rest) := by
  have hlen := opcodeLen_bounds op
  obtain h | h | h : opcodeLen op = 1 ∨ opcodeLen op = 2 ∨ opcodeLen op = 3 := by omega
  · simp [decode, h, decodeAt_of_opcodeLen_eq_one h]
  · simp [decode, h, decodeAt_of_opcodeLen_eq_two h b1]
  · simp [decode, h]

/-! ### From the lists to the map (R121, R122, R123, R131)

First the constructors that carry their opcode byte, over the bytes they may carry. -/

theorem decodeAt_of_mem_opsNopImp : ∀ op ∈ opsNopImp, decodeAt op 0 0 = .nopImp op := by decide

theorem decodeAt_of_mem_opsAbsent : ∀ op ∈ opsAbsent, decodeAt op 0 0 = .unimplemented op := by decide

theorem decodeAt_of_mem_opsNopImm (v : Byte) : ∀ op ∈ opsNopImm, decodeAt op v 0 = .nopImm op v := by
  simp only [opsNopImm, List.mem_cons, List.not_mem_nil, or_false, forall_eq_or_imp, forall_eq]
  and_intros <;> rfl

theorem decodeAt_of_mem_opsNopZp (b : Byte) : ∀ op ∈ opsNopZp, decodeAt op b 0 = .nopZp op b := by
  simp only [opsNopZp, List.mem_cons, List.not_mem_nil, or_false, forall_eq_or_imp, forall_eq]
  and_intros <;> rfl

theorem decodeAt_of_mem_opsNopZpx (b : Byte) : ∀ op ∈ opsNopZpx, decodeAt op b 0 = .nopZpx op b := by
  simp only [opsNopZpx, List.mem_cons, List.not_mem_nil, or_false, forall_eq_or_imp, forall_eq]
  and_intros <;> rfl

theorem decodeAt_of_mem_opsNopAbsx (lo hi : Byte) : ∀ op ∈ opsNopAbsx,
    decodeAt op lo hi = .nopAbsx op (wordOf hi lo) := by
  simp only [opsNopAbsx, List.mem_cons, List.not_mem_nil, or_false, forall_eq_or_imp, forall_eq]
  and_intros <;> rfl

/-- Every well-formed instruction stands in the map at its own opcode byte. In the modes the cases that are no encoding go by
the hypothesis, and what is left is one cell of the map. -/
theorem exists_decodeAt_of_wellFormed {i : Instr} (h : i.wellFormed = true) : ∃ b1 b2, decodeAt i.opcode b1 b2 = i := by
  cases i with dsimp only [Instr.opcode]
  | lda m | ldx m | ldy m | sta m | stx m | sty m | adc m | sbc m | and m | ora m | eor m | bit m | cmp m | cpx m | cpy m
  | inc m | dec m | asl m | lsr m | rol m | ror m | slo m | rla m | sre m | rra m | dcp m | isc m | lax m | sax m =>
    cases m with dsimp only [Mode.opcode]
    | imm b | zp b | zpx b | zpy b | izx b | izy b => cases h <;> exact ⟨b, 0, rfl⟩
    | abs w | absx w | absy w =>
      rw [← wordOf_bytes w]
      cases h <;> exact ⟨loByte w, hiByte w, rfl⟩
  | bpl d | bmi d | bvc d | bvs d | bcc d | bcs d | bne d | beq d | sbcEB d => exact ⟨d, 0, rfl⟩
  | jmp w | jmpInd w | jsr w | nopAbs w =>
    rw [← wordOf_bytes w]
    exact ⟨loByte w, hiByte w, rfl⟩
  | nopImp op => exact ⟨0, 0, decodeAt_of_mem_opsNopImp op (List.contains_iff_mem.1 h)⟩
  | nopImm op v => exact ⟨v, 0, decodeAt_of_mem_opsNopImm v op (List.contains_iff_mem.1 h)⟩
  | nopZp op b => exact ⟨b, 0, decodeAt_of_mem_opsNopZp b op (List.contains_iff_mem.1 h)⟩
  | nopZpx op b => exact ⟨b, 0, decodeAt_of_mem_opsNopZpx b op (List.contains_iff_mem.1 h)⟩
  | nopAbsx op w =>
    rw [← wordOf_bytes w]
    exact ⟨loByte w, hiByte w, decodeAt_of_mem_opsNopAbsx _ _ op (List.contains_iff_mem.1 h)⟩
  | unimplemented op => exact ⟨0, 0, decodeAt_of_mem_opsAbsent op (List.contains_iff_mem.1 h)⟩
  | _ => exact ⟨0, 0, rfl⟩

/-- Both sides together: a well-formed instruction is decoded from some bytes, and its encoding is those it uses of them. -/
theorem decode_encode_append {i : Instr} (h : i.wellFormed = true) (rest : List Byte) :
    decode (encode i ++ rest) = .ok (i, rest) := by
  obtain ⟨b1, b2, hi⟩ := exists_decodeAt_of_wellFormed h
  calc decode (encode i ++ rest)
      = decode ([i.opcode, b1, b2].take (opcodeLen i.opcode) ++ rest) := by rw [← encode_decodeAt, hi]
    _ = .ok (i, rest) := by rw [decode_take_append, hi]

namespace Machine

/-! ### Effective addresses (R105–R116) -/

theorem zeroPage_zero (b : Byte) : zeroPage b 0 = zext16 b := congrArg zext16 (BitVec.add_zero b)

/-- The two reads of a pointer as one list, the low byte's first (R65, R67). -/
theorem State.readPair_eq_two_reads (s : State) (lo hi : Addr) :
    s.readPair lo hi = (wordOf (s.peek hi) (s.peek lo),
      { s with bus := s.bus ++ [.read lo (s.peek lo), .read hi (s.peek hi)] }) := by
  rw [State.readPair_spec, List.append_assoc]
  rfl

/-- The operand in memory: the byte at the effective address, by one read of it after the pointer reads (R162). -/
theorem State.readOperand_of_memory (s : State) {m : Mode} (h : ∀ v, m ≠ .imm v) :
    s.readOperand m = (s.peek (s.resolve m).1,
      { s with bus := (s.resolve m).2.bus ++ [.read (s.resolve m).1 (s.peek (s.resolve m).1)] }) := by
  cases m with
  | imm v => exact absurd rfl (h v)
  | _ => rfl

/-! ### Branch targets (R110, R250) -/

theorem branchTarget_eq_ofInt (pc0 : Addr) (d : Byte) :
    branchTarget pc0 d = BitVec.ofInt 16 (pc0.toInt + 2 + d.toInt) := by
  rw [BitVec.ofInt_add, BitVec.ofInt_add, BitVec.ofInt_toInt]
  rfl

/-- The displacement is its distance above −128, a byte, less 128. -/
theorem sext16_eq_sub (d : Byte) : sext16 d = BitVec.ofNat 16 (d + 128).toNat - 128 := by
  revert d
  decide

theorem branchTarget_eq_sub_add (pc0 : Addr) (d : Byte) :
    branchTarget pc0 d = pc0 - 126 + BitVec.ofNat 16 (d + 128).toNat := by
  rw [branchTarget, sext16_eq_sub]
  generalize BitVec.ofNat 16 (d + 128).toNat = k
  bv_omega

end Machine

end Sys2Proof

namespace Sys2Proof.Claims

open Sys2Proof.Machine

/-! ### The statements -/

/-- Settles O4: every well-formed instruction stands in the map at its own opcode byte, and the map encodes back. -/
theorem decodeInvertsEncode : Obligations.DecodeInvertsEncode := fun _ rest h => decode_encode_append h rest

/-- Settles O5: cell by cell of the map. -/
theorem encodeInvertsDecode : Obligations.EncodeInvertsDecode :=
  fun op b1 b2 => ⟨decodeAt_wellFormed op b1 b2, encode_decodeAt op b1 b2⟩

/-- Settles O3: each word is decoded by looking up its first byte. -/
theorem sampleWordsDecode : Obligations.SampleWordsDecode := by
  unfold Obligations.SampleWordsDecode
  and_intros <;> rfl

/-- Settles O6: by counting the 256 cells of the map. -/
theorem opcodeBytesByKind : Obligations.OpcodeBytesByKind := by
  unfold Obligations.OpcodeBytesByKind
  decide +kernel

/-- Settles O7: a cell's kind gives the length, and its operand leaves the opcode byte alone. -/
theorem opcodeByteFixesLength : Obligations.OpcodeByteFixesLength :=
  fun op b1 b2 => ⟨decodeAt_len op b1 b2, decodeAt_opcode op b1 b2, opcodeLen_bounds op⟩

/-- Settles O8: mode by mode, the pointers by their two reads. -/
theorem effectiveAddresses : Obligations.EffectiveAddresses := by
  intro s b w
  refine ⟨rfl, ?_, rfl, rfl, rfl, rfl, rfl, s.readPair_eq_two_reads _ _, ?_, rfl, ?_⟩
  · rw [← zeroPage_zero]
    rfl
  · simp only [State.resolve, zeroPage_zero, State.readPair_eq_two_reads]
    rfl
  · exact fun m hm => s.readOperand_of_memory (by rintro v rfl; simp at hm)

/-- Settles O10: the displacement is a byte less 128, so the target is a byte above pc0 − 126; the four named displacements
are instances. -/
theorem branchTargetRange : Obligations.BranchTargetRange := by
  intro pc0 d
  refine ⟨branchTarget_eq_ofInt pc0 d, ⟨(d + 128).toNat, by omega, branchTarget_eq_sub_add pc0 d⟩, ?_⟩
  simp only [branchTarget_eq_sub_add]
  bv_omega

/-- Settles O25: the operand word, or the word read at the pointer. -/
theorem jumpResults : Obligations.JumpResults := by
  refine ⟨fun w s => ⟨rfl, ?_⟩, fun b1 b2 => ⟨rfl, rfl, fun s _ _ => ⟨_, rfl, rfl⟩⟩,
    fun b1 b2 => ⟨rfl, rfl, fun s _ _ => ⟨_, rfl, rfl⟩⟩⟩
  simp only [exec, execJmpInd, State.readPair_eq_two_reads]
  rfl

end Sys2Proof.Claims
end

section
/-! PROOFS. The family 40_execution: the ADC path in exact arithmetic (O14, O15), the shift functions (O20), and
rotations of A through the carry (O23). -/

namespace Sys2Proof.Machine

/-! ### The ADC path (R154) -/

@[simp] theorem zext9_toNat (v : Byte) : (zext9 v).toNat = v.toNat :=
  BitVec.toNat_setWidth_of_le (by decide)

/-- Bit 8 of a stage's 9-bit sum is its carry out of the low byte. -/
theorem getLsbD_8_eq_decide (w : BitVec 9) : w.getLsbD 8 = decide (w.toNat > 255) :=
  w.msb_eq_getLsbD_last.symm.trans w.msb_eq_toNat

theorem addWithCarry_r_toNat (a b : Byte) (cin : Bool) :
    (addWithCarry a b cin).r.toNat = (a.toNat + b.toNat + cin.toNat) % 256 := by
  simp [addWithCarry]

/-- The first stage carries the operands' sum, the second the carry in: either way the whole sum leaves the byte. -/
theorem addWithCarry_c (a b : Byte) (cin : Bool) :
    (addWithCarry a b cin).c = decide (a.toNat + b.toNat + cin.toNat > 255) := by
  have hcin := cin.toNat_lt
  simp only [addWithCarry, getLsbD_8_eq_decide, ← Bool.decide_or, decide_eq_decide, BitVec.toNat_add, zext9_toNat,
    BitVec.toNat_setWidth, BitVec.toNat_ofBool]
  omega

/-- The source's overflow formula by sign bits: operands of one sign and a result of the other. -/
theorem addWithCarry_v_iff_msb (a b : Byte) (cin : Bool) :
    (addWithCarry a b cin).v = true ↔ a.msb = b.msb ∧ a.msb ≠ (addWithCarry a b cin).r.msb := by
  have hv : (addWithCarry a b cin).v = (~~~(a ^^^ b) &&& (a ^^^ (addWithCarry a b cin).r)).msb :=
    (BitVec.msb_eq_getLsbD_last _).symm
  simp [hv]

theorem addWithCarry_v (a b : Byte) (cin : Bool) :
    (addWithCarry a b cin).v =
      decide (a.toInt + b.toInt + cin.toNat < -128 ∨ a.toInt + b.toInt + cin.toNat > 127) := by
  have hcin := cin.toNat_lt
  rw [Bool.eq_iff_iff, addWithCarry_v_iff_msb, decide_eq_true_iff]
  simp only [BitVec.msb_eq_decide, BitVec.toInt_eq_toNat_cond, addWithCarry_r_toNat, ne_eq, decide_eq_decide]
  omega

/-! ### Subtraction on the ADC path (R155) -/

theorem byte_toInt_not (m : Byte) : (~~~m).toInt = -1 - m.toInt := by
  simp only [BitVec.toInt_eq_toNat_cond, BitVec.toNat_not]
  omega

theorem subWithBorrow_r (a m : Byte) (cin : Bool) :
    (subWithBorrow a m cin).r = a - m - BitVec.ofNat 8 (1 - cin.toNat) := by
  have hcin := cin.toNat_lt
  apply BitVec.eq_of_toNat_eq
  rw [subWithBorrow, addWithCarry_r_toNat, BitVec.toNat_not, BitVec.toNat_sub, BitVec.toNat_sub, BitVec.toNat_ofNat]
  omega

theorem subWithBorrow_c (a m : Byte) (cin : Bool) :
    (subWithBorrow a m cin).c = decide (a.toNat ≥ m.toNat + (1 - cin.toNat)) := by
  have hcin := cin.toNat_lt
  rw [subWithBorrow, addWithCarry_c, BitVec.toNat_not, decide_eq_decide]
  omega

theorem subWithBorrow_v (a m : Byte) (cin : Bool) :
    (subWithBorrow a m cin).v =
      decide (a.toInt - m.toInt - (1 - cin.toNat : Int) < -128 ∨ a.toInt - m.toInt - (1 - cin.toNat : Int) > 127) := by
  rw [subWithBorrow, addWithCarry_v, byte_toInt_not, decide_eq_decide]
  omega

/-! ### The shift functions (R157) -/

theorem getLsbD_7_eq_decide (v : Byte) : v.getLsbD 7 = decide (v.toNat ≥ 128) :=
  v.msb_eq_getLsbD_last.symm.trans v.msb_eq_toNat

theorem getLsbD_0_eq_decide (v : Byte) : v.getLsbD 0 = decide (v.toNat % 2 = 1) :=
  Nat.testBit_zero _

theorem bitByte_toNat (b : Bool) : (bitByte b).toNat = b.toNat := by cases b <;> rfl

theorem aslF_r_toNat (v : Byte) : (aslF v).r.toNat = 2 * v.toNat % 256 := by
  rw [aslF, BitVec.toNat_shiftLeft, Nat.shiftLeft_eq, Nat.mul_comm]

theorem lsrF_r_toNat (v : Byte) : (lsrF v).r.toNat = v.toNat / 2 := BitVec.toNat_ushiftRight v 1

/-- The carry comes into the bit the doubling leaves 0, so that "or" is addition. -/
theorem rolF_r_toNat (v : Byte) (c : Bool) : (rolF v c).r.toNat = (2 * v.toNat + c.toNat) % 256 := by
  have hdisjoint : v <<< 1 &&& bitByte c = 0 := by
    ext i hi
    simp +contextual [bitByte]
  rw [rolF, ← BitVec.add_eq_or_of_and_eq_zero _ _ hdisjoint, BitVec.toNat_add, bitByte_toNat, BitVec.toNat_shiftLeft,
    Nat.shiftLeft_eq, Nat.mod_add_mod, Nat.mul_comm]

/-- The carry comes in above the half, which is below 128. -/
theorem rorF_r_toNat (v : Byte) (c : Bool) : (rorF v c).r.toNat = v.toNat / 2 + 128 * c.toNat := by
  have hhalf : v.toNat / 2 < 2 ^ 7 := by omega
  have hcarry : (bitByte c <<< 7).toNat = 2 ^ 7 * c.toNat := by cases c <;> rfl
  calc (rorF v c).r.toNat
      = v.toNat / 2 ||| 2 ^ 7 * c.toNat := by rw [rorF, BitVec.toNat_or, hcarry]; rfl
    _ = v.toNat / 2 + 2 ^ 7 * c.toNat := by rw [Nat.or_comm, ← Nat.two_pow_add_eq_or_of_lt hhalf, Nat.add_comm]

/-! ### Rotation through the carry

C above A is a word of nine bits, and ROL A and ROR A rotate it by one bit (R157). -/

/-- C as bit 8, A as bits 7 to 0. -/
def State.carryA (s : State) : BitVec 9 := BitVec.cons s.p.c s.a

theorem State.a_eq_and_c_eq_of_carryA_eq {s t : State} (h : t.carryA = s.carryA) : t.a = s.a ∧ t.p.c = s.p.c := by
  have ha := congrArg (BitVec.setWidth 8) h
  have hc := congrArg BitVec.msb h
  simp only [State.carryA, BitVec.setWidth_cons, BitVec.msb_cons] at ha hc
  exact ⟨ha, hc⟩

theorem cons_rolF (v : Byte) (c : Bool) :
    BitVec.cons (rolF v c).c (rolF v c).r = (BitVec.cons c v).rotateLeft 1 := by
  ext i hi
  obtain rfl | rfl | ⟨hpos, hlt⟩ : i = 0 ∨ i = 8 ∨ 0 < i ∧ i < 8 := by omega
  · simp [rolF, bitByte, BitVec.getElem_cons, BitVec.getElem_rotateLeft]
  · simp [rolF, BitVec.getElem_cons, BitVec.getElem_rotateLeft]
  · have hinner : i ≠ 0 ∧ i ≠ 8 ∧ i - 1 ≠ 8 := by omega
    simp [rolF, bitByte, BitVec.getElem_cons, BitVec.getElem_rotateLeft, hinner]

theorem cons_rorF (v : Byte) (c : Bool) :
    BitVec.cons (rorF v c).c (rorF v c).r = (BitVec.cons c v).rotateRight 1 := by
  ext i hi
  obtain rfl | rfl | hlt : i = 8 ∨ i = 7 ∨ i < 7 := by omega
  · simp [rorF, BitVec.getElem_cons, BitVec.getElem_rotateRight]
  · simp [rorF, bitByte, BitVec.getElem_cons, BitVec.getElem_rotateRight]
  · have hnext : i ≠ 8 ∧ i < 8 ∧ 1 + i ≠ 8 ∧ 1 + i < 8 := by omega
    simp [rorF, bitByte, BitVec.getElem_cons, BitVec.getElem_rotateRight, hlt, hnext]

theorem rotateLeft_zero {w : Nat} (x : BitVec w) : x.rotateLeft 0 = x :=
  BitVec.eq_of_getMsbD_eq fun i hi => by simp [BitVec.getMsbD_rotateLeft, hi, Nat.mod_eq_of_lt hi]

theorem rotateLeft_rotateLeft {w : Nat} (x : BitVec w) (m n : Nat) :
    (x.rotateLeft m).rotateLeft n = x.rotateLeft (m + n) := by
  refine BitVec.eq_of_getMsbD_eq fun i hi => ?_
  have hn : (n + i) % w < w := Nat.mod_lt _ (by omega)
  simp [BitVec.getMsbD_rotateLeft, hi, hn, Nat.add_assoc]

theorem rotateRight_one_eq_rotateLeft_eight (x : BitVec 9) : x.rotateRight 1 = x.rotateLeft 8 := by
  rw [BitVec.rotateRight_def, BitVec.rotateLeft_def, BitVec.or_comm]

theorem exec_rolA_rotates (s : State) : ∃ t, exec .rolA s = .next t ∧ t.carryA = s.carryA.rotateLeft 1 :=
  ⟨_, rfl, cons_rolF s.a s.p.c⟩

theorem exec_rorA_rotates (s : State) : ∃ t, exec .rorA s = .next t ∧ t.carryA = s.carryA.rotateLeft 8 :=
  ⟨_, rfl, (cons_rorF s.a s.p.c).trans (rotateRight_one_eq_rotateLeft_eight _)⟩

end Sys2Proof.Machine

namespace Sys2Proof.Claims

open Sys2Proof.Machine

section Rotates

variable {i : Instr} {d : Nat} (rotates : ∀ t, ∃ u, exec i t = .next u ∧ u.carryA = t.carryA.rotateLeft d) (s : State)
include rotates

theorem times_rotates (n : Nat) : ∃ t, times i n s = .next t ∧ t.carryA = s.carryA.rotateLeft (n * d) := by
  have keep : ∀ k t, t.carryA = s.carryA.rotateLeft (k * d) →
      ∃ u, exec i t = .next u ∧ u.carryA = s.carryA.rotateLeft ((k + 1) * d) := by
    intro k t hk
    obtain ⟨u, hu, hrot⟩ := rotates t
    exact ⟨u, hu, by rw [hrot, hk, rotateLeft_rotateLeft, Nat.succ_mul]⟩
  have h := times_keeps keep n (k := 0) (s := s) (by rw [Nat.zero_mul, rotateLeft_zero])
  rwa [Nat.zero_add] at h

/-- Nine rotations of nine bits by the same distance go full circles. -/
theorem nine_times_restores : ∃ t, times i 9 s = .next t ∧ t.a = s.a ∧ t.p.c = s.p.c := by
  obtain ⟨t, ht, hrot⟩ := times_rotates rotates s 9
  have hcircle : s.carryA.rotateLeft (9 * d) = s.carryA := by
    rw [← BitVec.rotateLeft_mod_eq_rotateLeft, Nat.mul_mod_right, rotateLeft_zero]
  exact ⟨t, ht, State.a_eq_and_c_eq_of_carryA_eq (hrot.trans hcircle)⟩

end Rotates

/-! ### The statements -/

/-- Settles O14: the carry by its two stages, the overflow by sign bits. -/
theorem addWithCarryIsExact : Obligations.AddWithCarryIsExact := by
  intro a b cin
  have hcin := cin.toNat_lt
  exact ⟨addWithCarry_r_toNat a b cin, addWithCarry_c a b cin, rfl, addWithCarry_v a b cin, by omega⟩

/-- Settles O15: the inverted operand is 255 - m unsigned and -1 - m signed. -/
theorem subWithBorrowIsExact : Obligations.SubWithBorrowIsExact :=
  fun a m cin => ⟨rfl, subWithBorrow_r a m cin, subWithBorrow_c a m cin, subWithBorrow_v a m cin⟩

/-- Settles O23: either rotate turns the nine bits of C and A by one, ROR A by eight the other way. -/
theorem nineRotatesRestore : Obligations.NineRotatesRestore :=
  fun s => ⟨nine_times_restores exec_rolA_rotates s, nine_times_restores exec_rorA_rotates s⟩

/-- Settles O20: results as numbers, and the bit shifted out is bit 7 or bit 0. -/
theorem shiftFunctions : Obligations.ShiftFunctions :=
  fun v c => ⟨⟨aslF_r_toNat v, getLsbD_7_eq_decide v⟩, ⟨lsrF_r_toNat v, getLsbD_0_eq_decide v⟩,
    ⟨rolF_r_toNat v c, getLsbD_7_eq_decide v⟩, ⟨rorF_r_toNat v c, getLsbD_0_eq_decide v⟩⟩

end Sys2Proof.Claims
end

section
/-! PROOFS. The family 41_load_store_transfer: loads (O11), stores (O12) and register transfers (O13), with the lemmas that
check a table of encodings, for the other families' tables too. -/

namespace Sys2Proof.Claims

open Sys2Proof.Machine

/-! ### Base cycles -/

/-- A Read-class instruction has the mode's base cost: the penalty it may add besides is off where Costs measures. -/
theorem costs_of_afterRead {i : Instr} {m : Mode}
    (h : ∀ s, ∃ t, exec i s = .next t ∧ t.cyc = (afterRead s m).cyc) : Costs i (readCost m) := by
  intro s _ hoff
  obtain ⟨t, hexec, hcyc⟩ := h s
  have hcost : (afterRead s m).cyc = s.cyc + BitVec.ofNat 64 (readCost m) := by
    simp only [afterRead, done, State.readPenalty_off hoff, Nat.add_zero]
  exact ⟨t, hexec, hcyc.trans hcost⟩

/-! ### Tables of encodings -/

/-- What a table row claims of a mnemonic on the operand bytes `b1`, `b2`: the instruction at the row's mode, that it is an
encoding, and its base cycles by the class's cost function. There is none where the row's mode names no operand. -/
def rowInstr (i : Mode → Instr) (cost : Mode → Nat) (b1 b2 : Byte) (row : ModeTag × Byte × Nat) :
    Option (Instr × Bool × Nat) :=
  (operandOf row.1 b1 b2).map fun m => (i m, (i m).wellFormed, cost m)

/-- What the decoder makes of the row's opcode byte before the same operand bytes, with the row's base cycles. -/
def rowDecoded (b1 b2 : Byte) (row : ModeTag × Byte × Nat) : Option (Instr × Bool × Nat) :=
  some (decodeAt row.2.1 b1 b2, true, row.2.2)

/-- A table lists encodings of a mnemonic when, on any operand bytes, the decoder agrees with it row by row. -/
theorem encodedAs_of_rows {i : Mode → Instr} {cost : Mode → Nat} {rows : List (ModeTag × Byte × Nat)}
    (hcost : ∀ m, Costs (i m) (cost m))
    (hrows : ∀ b1 b2, rows.map (rowInstr i cost b1 b2) = rows.map (rowDecoded b1 b2)) : EncodedAs i rows := by
  intro tag op n hmem b1 b2 m hm
  have hrow : rowInstr i cost b1 b2 (tag, op, n) = rowDecoded b1 b2 (tag, op, n) :=
    List.map_inj_left.mp (hrows b1 b2) _ hmem
  simp only [rowInstr, rowDecoded, hm, Option.map_some, Option.some.injEq, Prod.mk.injEq] at hrow
  obtain ⟨hdecode, hwf, hn⟩ := hrow
  exact ⟨hdecode.symm, hwf, hn ▸ hcost m⟩

/-! ### Loads (R180–R182) -/

section Access

variable (m : Mode) (s : State)

theorem exec_lda :
    exec (.lda m) s = .next { afterRead s m with a := operand s m, p := nz s.p (operand s m) } :=
  readClass_next m (fun v t => t.loadA v) s

theorem exec_ldx :
    exec (.ldx m) s = .next { afterRead s m with x := operand s m, p := nz s.p (operand s m) } :=
  readClass_next m (fun v t => t.loadX v) s

theorem exec_ldy :
    exec (.ldy m) s = .next { afterRead s m with y := operand s m, p := nz s.p (operand s m) } :=
  readClass_next m (fun v t => t.loadY v) s

/-! ### Stores (R183–R185) -/

theorem exec_sta : exec (.sta m) s = .next (afterWrite s m s.a) := writeClass_next m (fun t => t.a) s

theorem exec_stx : exec (.stx m) s = .next (afterWrite s m s.x) := writeClass_next m (fun t => t.x) s

theorem exec_sty : exec (.sty m) s = .next (afterWrite s m s.y) := writeClass_next m (fun t => t.y) s

end Access

/-! ### Transfers (R186–R191) -/

section Transfer

variable (s : State)

theorem exec_tax : exec .tax s = .next { done s 1 2 with x := s.a, p := nz s.p s.a } :=
  registerClass_next 2 (fun t => t.loadX t.a) s

theorem exec_tay : exec .tay s = .next { done s 1 2 with y := s.a, p := nz s.p s.a } :=
  registerClass_next 2 (fun t => t.loadY t.a) s

theorem exec_txa : exec .txa s = .next { done s 1 2 with a := s.x, p := nz s.p s.x } :=
  registerClass_next 2 (fun t => t.loadA t.x) s

theorem exec_tya : exec .tya s = .next { done s 1 2 with a := s.y, p := nz s.p s.y } :=
  registerClass_next 2 (fun t => t.loadA t.y) s

theorem exec_tsx : exec .tsx s = .next { done s 1 2 with x := s.sp, p := nz s.p s.sp } :=
  registerClass_next 2 (fun t => t.loadX t.sp) s

theorem exec_txs : exec .txs s = .next { done s 1 2 with sp := s.x } :=
  registerClass_next 2 (fun t => t.setSp t.x) s

end Transfer

/-! ### The statements -/

/-- Settles O11: the Read class's next state with the load as its operation; the three tables row by row. -/
theorem loadResults : Obligations.LoadResults :=
  ⟨fun m s => ⟨exec_lda m s, exec_ldx m s, exec_ldy m s⟩,
    encodedAs_of_rows (fun m => costs_of_afterRead fun s => ⟨_, exec_lda m s, rfl⟩) fun _ _ => rfl,
    encodedAs_of_rows (fun m => costs_of_afterRead fun s => ⟨_, exec_ldx m s, rfl⟩) fun _ _ => rfl,
    encodedAs_of_rows (fun m => costs_of_afterRead fun s => ⟨_, exec_ldy m s, rfl⟩) fun _ _ => rfl⟩

/-- Settles O12: the Write class's next state with the register as its byte; the three tables row by row. -/
theorem storeResults : Obligations.StoreResults :=
  ⟨fun m s => ⟨exec_sta m s, exec_stx m s, exec_sty m s⟩,
    encodedAs_of_rows (fun m s _ _ => ⟨_, exec_sta m s, rfl⟩) fun _ _ => rfl,
    encodedAs_of_rows (fun m s _ _ => ⟨_, exec_stx m s, rfl⟩) fun _ _ => rfl,
    encodedAs_of_rows (fun m s _ _ => ⟨_, exec_sty m s, rfl⟩) fun _ _ => rfl⟩

/-- Settles O13: the Register-only class's next state with each transfer as its operation. -/
theorem transferResults : Obligations.TransferResults :=
  ⟨fun s => ⟨exec_tax s, exec_tay s, exec_txa s, exec_tya s, exec_tsx s, exec_txs s⟩,
    ⟨fun _ _ => rfl, rfl, fun s _ _ => ⟨_, exec_tax s, rfl⟩⟩,
    ⟨fun _ _ => rfl, rfl, fun s _ _ => ⟨_, exec_tay s, rfl⟩⟩,
    ⟨fun _ _ => rfl, rfl, fun s _ _ => ⟨_, exec_txa s, rfl⟩⟩,
    ⟨fun _ _ => rfl, rfl, fun s _ _ => ⟨_, exec_tya s, rfl⟩⟩,
    ⟨fun _ _ => rfl, rfl, fun s _ _ => ⟨_, exec_tsx s, rfl⟩⟩,
    ⟨fun _ _ => rfl, rfl, fun s _ _ => ⟨_, exec_txs s, rfl⟩⟩⟩

end Sys2Proof.Claims
end

section
/-! PROOFS. The family 42_arith_logic_compare: the ADC path's instructions (O16), AND, ORA, EOR and BIT (O17),
comparisons (O18), increments and decrements (O19), with the Read-modify-write class's next state, for the other families too. -/

namespace Sys2Proof.Claims

open Sys2Proof.Machine

section Access

variable (m : Mode) (s : State)

/-! ### The ADC path (R200, R201) -/

theorem exec_adc :
    let r := addWithCarry s.a (operand s m) s.p.c
    exec (.adc m) s = .next { afterRead s m with a := r.r, p := { nz s.p r.r with c := r.c, v := r.v } } :=
  readClass_next m (fun v t => t.adcA v) s

theorem exec_sbc :
    let r := addWithCarry s.a (~~~(operand s m)) s.p.c
    exec (.sbc m) s = .next { afterRead s m with a := r.r, p := { nz s.p r.r with c := r.c, v := r.v } } :=
  readClass_next m (fun v t => t.sbcA v) s

/-! ### Logic (R202–R205) -/

theorem exec_and :
    exec (.and m) s = .next { afterRead s m with a := s.a &&& operand s m, p := nz s.p (s.a &&& operand s m) } :=
  readClass_next m (fun v t => t.andA v) s

theorem exec_ora :
    exec (.ora m) s = .next { afterRead s m with a := s.a ||| operand s m, p := nz s.p (s.a ||| operand s m) } :=
  readClass_next m (fun v t => t.oraA v) s

theorem exec_eor :
    exec (.eor m) s = .next { afterRead s m with a := s.a ^^^ operand s m, p := nz s.p (s.a ^^^ operand s m) } :=
  readClass_next m (fun v t => t.eorA v) s

theorem exec_bit :
    exec (.bit m) s = .next { afterRead s m with p := { s.p with
      z := (s.a &&& operand s m) == 0, n := (operand s m).getLsbD 7, v := (operand s m).getLsbD 6 } } :=
  readClass_next m (fun v t => t.setP (t.p.bitTest t.a v)) s

/-! ### Comparisons (R206–R208) -/

/-- The model's `ule` is the order of the bytes as numbers (R156). -/
theorem compare_eq_comparedFlags (p : Flags) (reg v : Byte) : p.compare reg v = comparedFlags p reg v := rfl

theorem exec_cmp : exec (.cmp m) s = .next { afterRead s m with p := comparedFlags s.p s.a (operand s m) } := by
  rw [← compare_eq_comparedFlags]
  exact readClass_next m (fun v t => t.compareWith t.a v) s

theorem exec_cpx : exec (.cpx m) s = .next { afterRead s m with p := comparedFlags s.p s.x (operand s m) } := by
  rw [← compare_eq_comparedFlags]
  exact readClass_next m (fun v t => t.compareWith t.x v) s

theorem exec_cpy : exec (.cpy m) s = .next { afterRead s m with p := comparedFlags s.p s.y (operand s m) } := by
  rw [← compare_eq_comparedFlags]
  exact readClass_next m (fun v t => t.compareWith t.y v) s

/-! ### Increments and decrements (R209–R214) -/

/-- A Read-modify-write instruction whose first micro-operation answers the byte `r` and the flags `p`: what follows the
write gets `r` and the state with both transactions made and the cycles still to be counted (R162). -/
theorem modifyClass_afterModify {m : Mode} {s : State} {micro : Byte → State → Byte × State} {r : Byte} {p : Flags}
    (hmicro : ∀ t : State, t.p = s.p → micro (s.peek (ea s m)) t = (r, t.setP p)) (after : Byte → State → State) :
    modifyClass m micro after s =
      .next ((after r { afterModify s m r with p := p, cyc := s.cyc }).addCycles (modifyCost m)) := by
  simp only [ea] at hmicro
  simp [modifyClass_next, hmicro, afterModify, done, ea, State.memWrite_reference, State.setP]

theorem plainMicro_eq {s t : State} (h : t.p = s.p) (f : Byte → Byte) (v : Byte) :
    plainMicro f v t = (f v, t.setP s.p) := h ▸ rfl

theorem exec_inc :
    let r := s.peek (ea s m) + 1
    exec (.inc m) s = .next { afterModify s m r with p := nz s.p r } :=
  modifyClass_afterModify (fun _ h => plainMicro_eq h incF _) fun r t => t.setNZ r

theorem exec_dec :
    let r := s.peek (ea s m) - 1
    exec (.dec m) s = .next { afterModify s m r with p := nz s.p r } :=
  modifyClass_afterModify (fun _ h => plainMicro_eq h decF _) fun r t => t.setNZ r

end Access

section Register

variable (s : State)

theorem exec_inx : exec .inx s = .next { done s 1 2 with x := s.x + 1, p := nz s.p (s.x + 1) } :=
  registerClass_next 2 (fun t => t.loadX (incF t.x)) s

theorem exec_iny : exec .iny s = .next { done s 1 2 with y := s.y + 1, p := nz s.p (s.y + 1) } :=
  registerClass_next 2 (fun t => t.loadY (incF t.y)) s

theorem exec_dex : exec .dex s = .next { done s 1 2 with x := s.x - 1, p := nz s.p (s.x - 1) } :=
  registerClass_next 2 (fun t => t.loadX (decF t.x)) s

theorem exec_dey : exec .dey s = .next { done s 1 2 with y := s.y - 1, p := nz s.p (s.y - 1) } :=
  registerClass_next 2 (fun t => t.loadY (decF t.y)) s

end Register

/-! ### The statements -/

/-- Settles O16: the Read class's next state with ADC and SBC as its operation; the two tables row by row. -/
theorem adcSbcResults : Obligations.AdcSbcResults :=
  ⟨fun m s => ⟨exec_adc m s, exec_sbc m s⟩,
    encodedAs_of_rows (fun m => costs_of_afterRead fun s => ⟨_, exec_adc m s, rfl⟩) fun _ _ => rfl,
    encodedAs_of_rows (fun m => costs_of_afterRead fun s => ⟨_, exec_sbc m s, rfl⟩) fun _ _ => rfl⟩

/-- Settles O17: the Read class's next state with each operation; the four tables row by row. -/
theorem logicResults : Obligations.LogicResults :=
  ⟨fun m s => ⟨exec_and m s, exec_ora m s, exec_eor m s, exec_bit m s⟩,
    encodedAs_of_rows (fun m => costs_of_afterRead fun s => ⟨_, exec_and m s, rfl⟩) fun _ _ => rfl,
    encodedAs_of_rows (fun m => costs_of_afterRead fun s => ⟨_, exec_ora m s, rfl⟩) fun _ _ => rfl,
    encodedAs_of_rows (fun m => costs_of_afterRead fun s => ⟨_, exec_eor m s, rfl⟩) fun _ _ => rfl,
    encodedAs_of_rows (fun m => costs_of_afterRead fun s => ⟨_, exec_bit m s, rfl⟩) fun _ _ => rfl⟩

/-- Settles O18: the Read class's next state with the comparison of each register; the three tables row by row. -/
theorem compareResults : Obligations.CompareResults :=
  ⟨fun m s => ⟨exec_cmp m s, exec_cpx m s, exec_cpy m s⟩,
    encodedAs_of_rows (fun m => costs_of_afterRead fun s => ⟨_, exec_cmp m s, rfl⟩) fun _ _ => rfl,
    encodedAs_of_rows (fun m => costs_of_afterRead fun s => ⟨_, exec_cpx m s, rfl⟩) fun _ _ => rfl,
    encodedAs_of_rows (fun m => costs_of_afterRead fun s => ⟨_, exec_cpy m s, rfl⟩) fun _ _ => rfl⟩

/-- Settles O19: the Read-modify-write class's next state for memory, the Register-only class's for X and Y. -/
theorem incDecResults : Obligations.IncDecResults :=
  ⟨fun m s => ⟨exec_inc m s, exec_dec m s⟩,
    fun s => ⟨exec_inx s, exec_iny s, exec_dex s, exec_dey s⟩,
    encodedAs_of_rows (fun m s _ _ => ⟨_, exec_inc m s, rfl⟩) fun _ _ => rfl,
    encodedAs_of_rows (fun m s _ _ => ⟨_, exec_dec m s, rfl⟩) fun _ _ => rfl,
    ⟨fun _ _ => rfl, rfl, fun s _ _ => ⟨_, exec_inx s, rfl⟩⟩,
    ⟨fun _ _ => rfl, rfl, fun s _ _ => ⟨_, exec_iny s, rfl⟩⟩,
    ⟨fun _ _ => rfl, rfl, fun s _ _ => ⟨_, exec_dex s, rfl⟩⟩,
    ⟨fun _ _ => rfl, rfl, fun s _ _ => ⟨_, exec_dey s, rfl⟩⟩⟩

end Sys2Proof.Claims
end

section
/-! PROOFS. The family 43_shift_rotate: shifts and rotates of A (O21) and of memory (O22), with the shift micro-operation,
for the fused instructions too. -/

namespace Sys2Proof.Claims

open Sys2Proof.Machine

/-! ### The accumulator forms (R230, R232, R234, R236) -/

section Accumulator

variable (s : State)

theorem exec_aslA :
    exec .aslA s = .next { done s 1 2 with a := s.a <<< 1, p := { nz s.p (s.a <<< 1) with c := s.a.getLsbD 7 } } :=
  registerClass_next 2 (fun t => t.shiftA aslF) s

theorem exec_lsrA :
    exec .lsrA s = .next { done s 1 2 with a := s.a >>> 1, p := { nz s.p (s.a >>> 1) with c := s.a.getLsbD 0 } } :=
  registerClass_next 2 (fun t => t.shiftA lsrF) s

theorem exec_rolA :
    let r := (s.a <<< 1) ||| bitByte s.p.c
    exec .rolA s = .next { done s 1 2 with a := r, p := { nz s.p r with c := s.a.getLsbD 7 } } :=
  registerClass_next 2 (fun t => t.shiftA fun v => rolF v t.p.c) s

theorem exec_rorA :
    let r := (s.a >>> 1) ||| (bitByte s.p.c <<< 7)
    exec .rorA s = .next { done s 1 2 with a := r, p := { nz s.p r with c := s.a.getLsbD 0 } } :=
  registerClass_next 2 (fun t => t.shiftA fun v => rorF v t.p.c) s

end Accumulator

/-! ### The memory forms (R231, R233, R235, R237) -/

/-- A shift's carry in is the C the instruction finds, since resolving and reading EA leave P alone (R157). -/
theorem shiftMicro_eq {s t : State} (h : t.p = s.p) (f : Byte → Bool → Shifted) (v : Byte) :
    shiftMicro f v t = ((f v s.p.c).r, t.setP { s.p with c := (f v s.p.c).c }) := h ▸ rfl

section Memory

variable (m : Mode) (s : State)

/-- A shift of memory by any of the four functions: the result stored at EA, the flags a shift leaves. -/
theorem modifyClass_shift (f : Byte → Bool → Shifted) :
    modifyClass m (shiftMicro f) (fun r t => t.setNZ r) s =
      .next { afterModify s m (f (s.peek (ea s m)) s.p.c).r with
        p := s.p.setShifted (f (s.peek (ea s m)) s.p.c) } :=
  modifyClass_afterModify (fun _ h => shiftMicro_eq h f _) fun r t => t.setNZ r

theorem exec_asl :
    let v := s.peek (ea s m)
    exec (.asl m) s = .next { afterModify s m (v <<< 1) with p := { nz s.p (v <<< 1) with c := v.getLsbD 7 } } :=
  modifyClass_shift m s fun v _ => aslF v

theorem exec_lsr :
    let v := s.peek (ea s m)
    exec (.lsr m) s = .next { afterModify s m (v >>> 1) with p := { nz s.p (v >>> 1) with c := v.getLsbD 0 } } :=
  modifyClass_shift m s fun v _ => lsrF v

theorem exec_rol :
    let v := s.peek (ea s m)
    let r := (v <<< 1) ||| bitByte s.p.c
    exec (.rol m) s = .next { afterModify s m r with p := { nz s.p r with c := v.getLsbD 7 } } :=
  modifyClass_shift m s rolF

theorem exec_ror :
    let v := s.peek (ea s m)
    let r := (v >>> 1) ||| (bitByte s.p.c <<< 7)
    exec (.ror m) s = .next { afterModify s m r with p := { nz s.p r with c := v.getLsbD 0 } } :=
  modifyClass_shift m s rorF

end Memory

/-! ### The statements -/

/-- Settles O21: the Register-only class's next state with each shift of A as its operation. -/
theorem accumulatorShiftResults : Obligations.AccumulatorShiftResults :=
  ⟨fun s => ⟨exec_aslA s, exec_lsrA s, exec_rolA s, exec_rorA s⟩,
    ⟨fun _ _ => rfl, rfl, fun s _ _ => ⟨_, exec_aslA s, rfl⟩⟩,
    ⟨fun _ _ => rfl, rfl, fun s _ _ => ⟨_, exec_lsrA s, rfl⟩⟩,
    ⟨fun _ _ => rfl, rfl, fun s _ _ => ⟨_, exec_rolA s, rfl⟩⟩,
    ⟨fun _ _ => rfl, rfl, fun s _ _ => ⟨_, exec_rorA s, rfl⟩⟩⟩

/-- Settles O22: the Read-modify-write class's next state with each shift as its first micro-operation; the four tables row
by row. -/
theorem memoryShiftResults : Obligations.MemoryShiftResults :=
  ⟨fun m s => ⟨exec_asl m s, exec_lsr m s, exec_rol m s, exec_ror m s⟩,
    encodedAs_of_rows (fun m s _ _ => ⟨_, exec_asl m s, rfl⟩) fun _ _ => rfl,
    encodedAs_of_rows (fun m s _ _ => ⟨_, exec_lsr m s, rfl⟩) fun _ _ => rfl,
    encodedAs_of_rows (fun m s _ _ => ⟨_, exec_rol m s, rfl⟩) fun _ _ => rfl,
    encodedAs_of_rows (fun m s _ _ => ⟨_, exec_ror m s, rfl⟩) fun _ _ => rfl⟩

end Sys2Proof.Claims
end

section
/-! PROOFS. The family 44_control_flow: branches (O24), JSR and RTS (O26), and the return from a call (O27). JMP (O25)
stands with the family 30_encoding. -/

namespace Sys2Proof.Claims

open Sys2Proof.Machine

/-! ### Branches (R250–R258) -/

section Branches

variable {i : Byte → Instr} {op : Byte} {cond : Flags → Bool}

/-- Row by row of the table: a branch on the row's condition, which the row's opcode byte decodes to. -/
theorem exec_and_decodeAt_of_mem_branches (hrow : (i, op, cond) ∈ branches) :
    (∀ (d : Byte) (s : State), exec (i d) s = branchClass (cond s.p) d s) ∧
      ∀ b1 b2 : Byte, decodeAt op b1 b2 = i b1 := by
  simp only [branches, List.mem_cons, Prod.mk.injEq, List.not_mem_nil, or_false] at hrow
  obtain ⟨rfl, rfl, rfl⟩ | ⟨rfl, rfl, rfl⟩ | ⟨rfl, rfl, rfl⟩ | ⟨rfl, rfl, rfl⟩ | ⟨rfl, rfl, rfl⟩ | ⟨rfl, rfl, rfl⟩ |
    ⟨rfl, rfl, rfl⟩ | ⟨rfl, rfl, rfl⟩ := hrow <;>
  exact ⟨fun _ _ => rfl, fun _ _ => rfl⟩

end Branches

/-! ### Calls and returns (R261, R262) -/

theorem exec_jsr (w : Addr) (s : State) :
    exec (.jsr w) s = .next { s.push16 (s.pc + 3 - 1) with pc := w, cyc := s.cyc + 6 } := rfl

theorem exec_rts (s : State) :
    exec .rts s = .next { s.pull16.2 with pc := s.pull16.1 + 1, cyc := s.cyc + 6 } := rfl

/-- A jump does not change what the stack holds: PC and the cycle count pass through a pull. -/
theorem pull16_with_pc_cyc (t : State) (w : Addr) (n : BitVec 64) :
    ({ t with pc := w, cyc := n } : State).pull16 = (t.pull16.1, { t.pull16.2 with pc := w, cyc := n }) := rfl

/-- RTS at the target of a jump that pushed `ret`: the word it pulls is `ret`, and it goes to the address after (R262). -/
theorem exec_rts_after_push16 (s : State) (ret w : Addr) (n : BitVec 64) :
    exec .rts { s.push16 ret with pc := w, cyc := n } =
      .next { (s.push16 ret).pull16.2 with pc := ret + 1, cyc := n + 6 } := by
  rw [exec_rts, pull16_with_pc_cyc, pull16_push16_value]

/-! ### The statements -/

/-- Settles O24: what a branch does, with its row's condition. -/
theorem branchResults : Obligations.BranchResults := by
  intro i op cond hrow
  obtain ⟨hexec, hdecode⟩ := exec_and_decodeAt_of_mem_branches hrow
  refine ⟨fun d s => ?_, hdecode⟩
  rw [hexec, branchClass_next]
  rfl

/-- Settles O26: JSR by its definition; RTS by the two slots its pulls read, their reads as one list. -/
theorem callReturnResults : Obligations.CallReturnResults := by
  refine ⟨exec_jsr, fun s => ?_, fun _ _ => ⟨rfl, rfl, fun s _ _ => ⟨_, exec_jsr _ s, rfl⟩⟩,
    fun _ _ => rfl, rfl, fun s _ _ => ⟨_, exec_rts s, rfl⟩⟩
  rw [exec_rts, State.pull16_spec]
  simp

/-- Settles O27: the word pushed is one less than pc0 + 3, and it is the word pulled. -/
theorem jsrThenRtsReturns : Obligations.JsrThenRtsReturns := by
  intro w s
  refine ⟨_, _, exec_jsr w s, exec_rts_after_push16 s _ w _, rfl, ?pc, ?sp, ?registers⟩
  case pc => exact BitVec.sub_add_cancel ..
  case sp => simp only [pull16_push16_sp]
  case registers => simp [State.push16, State.pull16_spec]

end Sys2Proof.Claims
end

section
/-! PROOFS. The family 45_stack_flag_misc: the stack instructions (O31), and the flag instructions with NOP (O32). -/

namespace Sys2Proof.Claims

open Sys2Proof.Machine

/-! ### The stack instructions (R270–R273) -/

section Stack

variable (s : State)

theorem exec_pha : exec .pha s = .next (done (s.push s.a) 1 3) :=
  registerClass_next 3 (fun t => t.push t.a) s

theorem exec_pla :
    exec .pla s = .next { done s.pull.2 1 4 with
      a := s.peek (stackAddr (s.sp + 1)), p := nz s.p (s.peek (stackAddr (s.sp + 1))) } :=
  registerClass_next 4 (fun t => t.pull.2.loadA t.pull.1) s

/-- The `$30` of R272 sets B and U in the pushed byte; P itself is not written. -/
theorem exec_php : exec .php s = .next (done (s.push (pack s.p ||| 0x30)) 1 3) :=
  registerClass_next 3 (fun t => t.push (pushedByPhp t.p)) s

theorem exec_plp :
    exec .plp s = .next { done s.pull.2 1 4 with p := pulledFlags (s.peek (stackAddr (s.sp + 1))) } :=
  registerClass_next 4 (fun t => t.pull.2.setP (unpackPulled t.pull.1)) s

end Stack

/-! ### The flag instructions and NOP (R274–R281) -/

section Flag

variable {i : Instr} {op : Byte} {f : Flags → Flags}

/-- Row by row of the table: a Register-only instruction of two cycles that sets P to what the row makes of it, which the
row's opcode byte decodes to and which is that byte alone. NOP sets P to itself. -/
theorem exec_and_decodeAt_of_mem_flagInstrs (hrow : (i, op, f) ∈ flagInstrs) :
    (∀ s : State, exec i s = registerClass 2 (fun t => t.setP (f t.p)) s) ∧
      (∀ b1 b2 : Byte, decodeAt op b1 b2 = i) ∧ i.len = 1 := by
  simp only [flagInstrs, List.mem_cons, Prod.mk.injEq, List.not_mem_nil, or_false] at hrow
  obtain ⟨rfl, rfl, rfl⟩ | ⟨rfl, rfl, rfl⟩ | ⟨rfl, rfl, rfl⟩ | ⟨rfl, rfl, rfl⟩ | ⟨rfl, rfl, rfl⟩ | ⟨rfl, rfl, rfl⟩ |
    ⟨rfl, rfl, rfl⟩ | ⟨rfl, rfl, rfl⟩ := hrow <;>
  exact ⟨fun _ => rfl, fun _ _ => rfl, rfl⟩

/-- What the table says of a row, by the Register-only class's next state. -/
theorem exec_of_mem_flagInstrs (hrow : (i, op, f) ∈ flagInstrs) (s : State) :
    exec i s = .next { done s 1 2 with p := f s.p } := by
  obtain ⟨hexec, -⟩ := exec_and_decodeAt_of_mem_flagInstrs hrow
  rw [hexec, registerClass_next]
  rfl

end Flag

/-! ### The statements -/

/-- Settles O31: the Register-only class's next state with each push and pull as its operation. -/
theorem stackInstructionResults : Obligations.StackInstructionResults :=
  ⟨fun s => ⟨exec_pha s, exec_pla s, exec_php s, exec_plp s⟩,
    ⟨fun _ _ => rfl, rfl, fun s _ _ => ⟨_, exec_pha s, rfl⟩⟩,
    ⟨fun _ _ => rfl, rfl, fun s _ _ => ⟨_, exec_pla s, rfl⟩⟩,
    ⟨fun _ _ => rfl, rfl, fun s _ _ => ⟨_, exec_php s, rfl⟩⟩,
    ⟨fun _ _ => rfl, rfl, fun s _ _ => ⟨_, exec_plp s, rfl⟩⟩⟩

/-- Settles O32: what a row of the table does and decodes from, its cycles read off its next state. -/
theorem flagInstructionResults : Obligations.FlagInstructionResults := by
  intro i op f hrow
  obtain ⟨-, hdecode, hlen⟩ := exec_and_decodeAt_of_mem_flagInstrs hrow
  have hexec := exec_of_mem_flagInstrs hrow
  exact ⟨hexec, hdecode, hlen, fun s _ _ => ⟨_, hexec s, rfl⟩⟩

end Sys2Proof.Claims
end

section
/-! PROOFS. The family 46_system: BRK and RTI (O34), and RTI after BRK (O35) and after NMI (O43). BRK and NMI enter a handler
by the same three pushes, so one lemma says what RTI makes of either. -/

namespace Sys2Proof.Machine

/-! ### The status byte a handler's entry pushes (R34, R342) -/

/-- RTI clears the stored B, so the B that was pushed is not seen (R290, R291). -/
theorem unpackPulled_pack (p : Flags) : unpackPulled (pack p) = { p with b := false } := by
  rw [unpackPulled, unpack_pack]

/-- `(pack(P) & ~$10) | $20` is the status byte with B clear (R342). -/
theorem pack_clear_b (p : Flags) : pack { p with b := false } = pushedByNmi p := by
  obtain ⟨n, v, b, d, i, z, c⟩ := p
  revert n v b d i z c
  decide

/-! ### The stack slots of a handler's entry -/

section HandlerSlots

variable (s : State) (ret : Addr) (status : Byte) (vec : Addr)

/-- At most 255 pushes apart, two stack slots are different ones (R35). -/
theorem stackAddr_ne_stackAddr_sub (sp : Byte) {k : Byte} (hk : k ≠ 0) : stackAddr sp ≠ stackAddr (sp - k) := by
  rw [Ne, stackAddr_inj]
  bv_omega

theorem State.enterHandler_sp : (s.enterHandler ret status vec).sp = s.sp - 1 - 1 - 1 := by
  simp only [State.enterHandler_spec, State.push_sp]

/-- After the three pushes a handler's entry only reads. -/
theorem State.enterHandler_peek (a : Addr) :
    (s.enterHandler ret status vec).peek a = (((s.push (hiByte ret)).push (loByte ret)).push status).peek a :=
  State.peek_congr (by rw [State.enterHandler_spec]) a

theorem State.enterHandler_peek_status : (s.enterHandler ret status vec).peek (stackAddr (s.sp - 1 - 1)) = status := by
  simp only [State.enterHandler_peek, State.peek_push, State.push_sp, if_true]

/-- The status does not overwrite the low byte, whatever SP was (R35, R42). -/
theorem State.enterHandler_peek_lo : (s.enterHandler ret status vec).peek (stackAddr (s.sp - 1)) = loByte ret := by
  have hstatus : stackAddr (s.sp - 1) ≠ stackAddr (s.sp - 1 - 1) := stackAddr_ne_stackAddr_sub _ (by decide)
  simp only [State.enterHandler_peek, State.peek_push, State.push_sp, if_neg hstatus, if_true]

/-- Neither the low byte nor the status overwrites the high byte, whatever SP was (R35, R42). -/
theorem State.enterHandler_peek_hi : (s.enterHandler ret status vec).peek (stackAddr s.sp) = hiByte ret := by
  have hlo : stackAddr s.sp ≠ stackAddr (s.sp - 1) := stackAddr_ne_stackAddr_sub _ (by decide)
  have hstatus : stackAddr s.sp ≠ stackAddr (s.sp - 1 - 1) := by
    rw [BitVec.sub_sub]
    exact stackAddr_ne_stackAddr_sub _ (by decide)
  simp only [State.enterHandler_peek, State.peek_push, State.push_sp, if_neg hlo, if_neg hstatus, if_true]

end HandlerSlots

/-- `nmi()` on a running CORE: the handler at $FFFA, entered from PC (R342). -/
theorem nmiCall_of_running {s : State} (hr : s.run = .running) :
    nmiCall s = .next ((s.newTransition.enterHandler s.pc (pushedByNmi s.p) vecNmi).addCycles 7) := by
  simp only [nmiCall, whenRunning, hr, State.newTransition_pc, State.newTransition_p]

end Sys2Proof.Machine

namespace Sys2Proof.Claims

open Sys2Proof.Machine

/-! ### BRK and RTI (R290, R291) -/

/-- The pushed byte is packed with B set and I as it was; I is set after it (R290). -/
theorem exec_brk (s : State) :
    exec .brk s = .next (((s.setP { s.p with b := true }).enterHandler (s.pc + 2) (pack { s.p with b := true })
      vecBrk).addCycles 7) := rfl

theorem exec_rti (s : State) : exec .rti s = .next (s.returnFromHandler.addCycles 6) := rfl

/-- RTI at the start of a handler: PC is the return address itself, P the pushed status with B cleared, SP as before the
entry; A, X and Y are written by neither (R291, R348). -/
theorem exec_rti_after_enterHandler (s : State) (ret : Addr) (status : Byte) (vec : Addr) (cost : Nat) :
    ∃ u, exec .rti ((s.enterHandler ret status vec).addCycles cost) = .next u ∧
      u.pc = ret ∧ u.sp = s.sp ∧ u.p = unpackPulled status ∧ u.a = s.a ∧ u.x = s.x ∧ u.y = s.y := by
  refine ⟨_, exec_rti _, ?pc, ?sp, ?p, ?registers⟩
  case pc =>
    simp only [State.addCycles_pc, State.returnFromHandler_spec, State.addCycles_sp, State.enterHandler_sp,
      BitVec.sub_add_cancel, State.addCycles_peek, State.enterHandler_peek_lo, State.enterHandler_peek_hi, wordOf_bytes]
  case sp =>
    simp only [State.addCycles_sp, State.returnFromHandler_spec, State.enterHandler_sp, BitVec.sub_add_cancel]
  case p =>
    simp only [State.addCycles_p, State.returnFromHandler_spec, State.addCycles_sp, State.enterHandler_sp,
      BitVec.sub_add_cancel, State.addCycles_peek, State.enterHandler_peek_status]
  case registers => simp [State.returnFromHandler_spec, State.enterHandler_spec]

/-! ### The statements -/

/-- Settles O34: BRK by what entering a handler does, RTI by what returning from one does, the reads as one list. -/
theorem brkRtiResults : Obligations.BrkRtiResults := by
  refine ⟨fun s => ⟨?brk, ?rti⟩, ⟨fun _ _ => rfl, rfl, fun s _ _ => ⟨_, exec_brk s, by simp [State.enterHandler_spec]⟩⟩,
    fun _ _ => rfl, rfl, fun s _ _ => ⟨_, exec_rti s, by simp [State.returnFromHandler_spec]⟩⟩
  case brk =>
    simp only [exec_brk, State.enterHandler_spec, List.append_assoc]
    rfl
  case rti =>
    rw [exec_rti, State.returnFromHandler_spec, List.append_assoc, List.append_assoc]
    rfl

/-- Settles O35: RTI after the entry of BRK's handler. -/
theorem brkThenRtiResumes : Obligations.BrkThenRtiResumes := by
  intro s
  obtain ⟨u, hu, hpc, hsp, hp, hregisters⟩ := exec_rti_after_enterHandler (s.setP { s.p with b := true }) (s.pc + 2)
    (pack { s.p with b := true }) vecBrk 7
  rw [unpackPulled_pack] at hp
  exact ⟨_, u, exec_brk s, hu, by simp [State.enterHandler_spec], hpc, hsp, hp, hregisters⟩

/-- Settles O43: RTI after the entry of NMI's handler. -/
theorem nmiThenRtiResumes : Obligations.NmiThenRtiResumes := by
  intro s hr
  obtain ⟨u, hu, hpc, hsp, hp, hregisters⟩ := exec_rti_after_enterHandler s.newTransition s.pc (pushedByNmi s.p) vecNmi 7
  rw [← pack_clear_b, unpackPulled_pack] at hp
  exact ⟨_, u, nmiCall_of_running hr, hu, by simp [State.enterHandler_spec, hr], hpc, hsp, hp, hregisters⟩

end Sys2Proof.Claims
end

section
/-! PROOFS. The family 47_unofficial: the fused instructions (O36), LAX and SAX (O37), and the gated ones with the gate open
(O38) and shut (O39). -/

namespace Sys2Proof.Claims

open Sys2Proof.Machine

/-! ### The fused instructions (R301–R306) -/

section Fused

variable (m : Mode) (s : State)

/-- A fused instruction that begins with a shift: the second micro-operation finds C as the shift left it (R300). -/
theorem modifyClass_afterShift (f : Byte → Bool → Shifted) (after : Byte → State → State) :
    let u := f (s.peek (ea s m)) s.p.c
    modifyClass m (shiftMicro f) after s =
      .next ((after u.r { afterModify s m u.r with p := { s.p with c := u.c }, cyc := s.cyc }).addCycles (modifyCost m)) :=
  modifyClass_afterModify (fun _ h => shiftMicro_eq h f _) after

theorem exec_slo :
    let v := s.peek (ea s m)
    let r := v <<< 1
    exec (.slo m) s = .next { afterModify s m r with
      a := s.a ||| r, p := { nz s.p (s.a ||| r) with c := v.getLsbD 7 } } :=
  modifyClass_afterShift m s (fun v _ => aslF v) fun r t => t.oraA r

theorem exec_rla :
    let v := s.peek (ea s m)
    let r := (v <<< 1) ||| bitByte s.p.c
    exec (.rla m) s = .next { afterModify s m r with
      a := s.a &&& r, p := { nz s.p (s.a &&& r) with c := v.getLsbD 7 } } :=
  modifyClass_afterShift m s rolF fun r t => t.andA r

theorem exec_sre :
    let v := s.peek (ea s m)
    let r := v >>> 1
    exec (.sre m) s = .next { afterModify s m r with
      a := s.a ^^^ r, p := { nz s.p (s.a ^^^ r) with c := v.getLsbD 0 } } :=
  modifyClass_afterShift m s (fun v _ => lsrF v) fun r t => t.eorA r

theorem exec_rra :
    let v := s.peek (ea s m)
    let r := (v >>> 1) ||| (bitByte s.p.c <<< 7)
    let q := addWithCarry s.a r (v.getLsbD 0)
    exec (.rra m) s = .next { afterModify s m r with a := q.r, p := { nz s.p q.r with c := q.c, v := q.v } } :=
  modifyClass_afterShift m s rorF fun r t => t.adcA r

theorem exec_dcp :
    let r := s.peek (ea s m) - 1
    exec (.dcp m) s = .next { afterModify s m r with p := comparedFlags s.p s.a r } := by
  intro r
  rw [← compare_eq_comparedFlags]
  exact modifyClass_afterModify (fun _ h => plainMicro_eq h decF _) fun r t => t.compareWith t.a r

theorem exec_isc :
    let r := s.peek (ea s m) + 1
    let q := addWithCarry s.a (~~~r) s.p.c
    exec (.isc m) s = .next { afterModify s m r with a := q.r, p := { nz s.p q.r with c := q.c, v := q.v } } :=
  modifyClass_afterModify (fun _ h => plainMicro_eq h incF _) fun r t => t.sbcA r

/-! ### LAX and SAX (R307, R308) -/

theorem exec_lax :
    exec (.lax m) s = .next { afterRead s m with a := operand s m, x := operand s m, p := nz s.p (operand s m) } :=
  readClass_next m (fun v t => (t.setX v).loadA v) s

theorem exec_sax : exec (.sax m) s = .next (afterWrite s m (s.a &&& s.x)) :=
  writeClass_next m (fun t => t.a &&& t.x) s

end Fused

/-! ### The gated instructions with the gate open (R310–R317) -/

/-- An immediate operand is read by the fetch: no further transaction, and no penalty (R105). -/
theorem afterRead_imm (s : State) (v : Byte) : afterRead s (.imm v) = done s 2 2 := by
  rw [afterRead, State.readPenalty_imm]
  rfl

section Open

variable {s : State} (hopen : s.par.extraUnofficial = true)
include hopen

theorem gated_open (op : Byte) (meaning : State → Host.Outcome State Fault Refusal) : gated op meaning s = meaning s := by
  rw [gated_next, if_pos hopen]

theorem exec_nopImp (op : Byte) : exec (.nopImp op) s = .next (done s 1 2) := gated_open hopen op _

/-- A NOP with an operand reads it and keeps everything else but PC and cyc. -/
theorem gated_discarded_read (op : Byte) (m : Mode) : gated op (readClass m fun _ t => t) s = .next (afterRead s m) := by
  rw [gated_open hopen, readClass_next]
  rfl

theorem exec_nopZp (op b : Byte) : exec (.nopZp op b) s = .next (afterRead s (.zp b)) := gated_discarded_read hopen op _
theorem exec_nopZpx (op b : Byte) : exec (.nopZpx op b) s = .next (afterRead s (.zpx b)) := gated_discarded_read hopen op _
theorem exec_nopAbs (w : Addr) : exec (.nopAbs w) s = .next (afterRead s (.abs w)) := gated_discarded_read hopen 0x0C _
theorem exec_nopAbsx (op : Byte) (w : Addr) : exec (.nopAbsx op w) s = .next (afterRead s (.absx w)) :=
  gated_discarded_read hopen op _

theorem exec_nopImm (op v : Byte) : exec (.nopImm op v) s = .next (done s 2 2) := by
  rw [← afterRead_imm s v]
  exact gated_discarded_read hopen op _

theorem exec_sbcEB_eq_sbc (v : Byte) : exec (.sbcEB v) s = exec (.sbc (.imm v)) s := gated_open hopen 0xEB _

theorem exec_sbcEB (v : Byte) :
    let r := addWithCarry s.a (~~~v) s.p.c
    exec (.sbcEB v) s = .next { done s 2 2 with a := r.r, p := { nz s.p r.r with c := r.c, v := r.v } } := by
  rw [exec_sbcEB_eq_sbc hopen, exec_sbc, afterRead_imm]
  rfl

end Open

/-! ### Encodings that carry their opcode byte -/

/-- A NOP that reads its operand has the mode's base cost: Costs measures with the gate open. -/
theorem costs_of_nop {i : Instr} {m : Mode}
    (h : ∀ s : State, s.par.extraUnofficial = true → exec i s = .next (afterRead s m)) : Costs i (readCost m) := by
  intro s hopen hoff
  refine ⟨_, h s hopen, ?_⟩
  simp only [afterRead, done, State.readPenalty_off hoff, Nat.add_zero]

/-- A one-byte instruction is decoded from its opcode byte whatever bytes follow. -/
theorem encodedOne_of_decodeAt {i : Instr} {op : Byte} {n : Nat} (hdecode : decodeAt op 0 0 = i) (hlen : i.len = 1)
    (hcosts : Costs i n) : EncodedOne i op n := by
  have hop : opcodeLen op = 1 := by rw [← decodeAt_len op 0 0, hdecode, hlen]
  exact ⟨fun b1 b2 => (decodeAt_of_opcodeLen_eq_one hop b1 b2).trans hdecode, hlen, hcosts⟩

/-- A two-byte instruction is decoded from its opcode byte and the byte after it, whatever byte follows. -/
theorem encodedTwo_of_decodeAt {i : Byte → Instr} {op : Byte} {n : Nat} (hdecode : ∀ b, decodeAt op b 0 = i b)
    (hlen : ∀ b, (i b).len = 2) (hcosts : ∀ b, Costs (i b) n) : EncodedTwo i op n := by
  have hop : opcodeLen op = 2 := by rw [← decodeAt_len op 0 0, hdecode, hlen]
  exact fun b => ⟨fun b2 => (decodeAt_of_opcodeLen_eq_two hop b b2).trans (hdecode b), hlen b, hcosts b⟩

/-! ### The absent and the gated bytes (R123, R131, R151) -/

/-- An opcode byte is absent when its instruction is of the absent kind, or gated with the gate shut. -/
theorem isAbsent_iff_kindOf (par : Params) (i : Instr) :
    i.isAbsent par = true ↔ kindOf i = .absent ∨ kindOf i = .gated ∧ par.extraUnofficial = false := by
  cases i <;> simp [Instr.isAbsent, kindOf]

/-- The parameters with the gate open. -/
def gateOpen : Params := { Config.params with extraUnofficial := true }

theorem kindOf_eq_absent_iff (i : Instr) : kindOf i = .absent ↔ i.isAbsent gateOpen = true := by
  simp [isAbsent_iff_kindOf, gateOpen]

/-- The gate alone makes a gated byte absent or present. -/
theorem kindOf_eq_gated_iff (i : Instr) :
    kindOf i = .gated ↔ i.isAbsent Config.params = true ∧ ¬ i.isAbsent gateOpen = true := by
  rw [isAbsent_iff_kindOf, ← kindOf_eq_absent_iff]
  cases kindOf i <;> decide

/-- The absent bytes are the listed ones: no operand byte has a say in it. -/
theorem kindOf_decodeAt_eq_absent_iff (op b1 b2 : Byte) : kindOf (decodeAt op b1 b2) = .absent ↔ op ∈ opsAbsent := by
  rw [kindOf_eq_absent_iff, decodeAt_isAbsent]
  revert op
  decide

/-- The gated bytes are the listed ones: no operand byte has a say in it. -/
theorem kindOf_decodeAt_eq_gated_iff (op b1 b2 : Byte) : kindOf (decodeAt op b1 b2) = .gated ↔ op ∈ gatedBytes := by
  rw [kindOf_eq_gated_iff, decodeAt_isAbsent Config.params, decodeAt_isAbsent gateOpen]
  revert op
  decide

/-! ### The statements -/

/-- Settles O36: the Read-modify-write class's next state with both micro-operations; the six tables row by row. -/
theorem fusedResults : Obligations.FusedResults :=
  ⟨fun m s => ⟨exec_slo m s, exec_rla m s, exec_sre m s, exec_rra m s, exec_dcp m s, exec_isc m s⟩,
    encodedAs_of_rows (fun m s _ _ => ⟨_, exec_slo m s, rfl⟩) fun _ _ => rfl,
    encodedAs_of_rows (fun m s _ _ => ⟨_, exec_rla m s, rfl⟩) fun _ _ => rfl,
    encodedAs_of_rows (fun m s _ _ => ⟨_, exec_sre m s, rfl⟩) fun _ _ => rfl,
    encodedAs_of_rows (fun m s _ _ => ⟨_, exec_rra m s, rfl⟩) fun _ _ => rfl,
    encodedAs_of_rows (fun m s _ _ => ⟨_, exec_dcp m s, rfl⟩) fun _ _ => rfl,
    encodedAs_of_rows (fun m s _ _ => ⟨_, exec_isc m s, rfl⟩) fun _ _ => rfl⟩

/-- Settles O37: the Read class's next state for LAX, the Write class's for SAX; the two tables row by row. -/
theorem laxSaxResults : Obligations.LaxSaxResults :=
  ⟨fun m s => ⟨exec_lax m s, exec_sax m s⟩,
    encodedAs_of_rows (fun m => costs_of_afterRead fun s => ⟨_, exec_lax m s, rfl⟩) fun _ _ => rfl,
    encodedAs_of_rows (fun m s _ _ => ⟨_, exec_sax m s, rfl⟩) fun _ _ => rfl⟩

/-- Settles O38: with the gate open each meaning is its access class's; the opcode bytes by their lists, mode by mode. -/
theorem gatedResultsWhenEnabled : Obligations.GatedResultsWhenEnabled := by
  refine ⟨fun s h op b w => ⟨exec_nopImp h op, exec_nopImm h op b, exec_nopZp h op b, exec_nopZpx h op b, exec_nopAbs h w,
    exec_nopAbsx h op w, exec_sbcEB_eq_sbc h b, exec_sbcEB h b⟩, ?imp, ?imm, ?zp, ?zpx, ?abs, ?absx, ?sbc⟩
  case imp =>
    exact fun op hop => encodedOne_of_decodeAt (decodeAt_of_mem_opsNopImp op hop) rfl
      fun s h _ => ⟨_, exec_nopImp h op, rfl⟩
  case imm =>
    exact fun op hop => encodedTwo_of_decodeAt (fun v => decodeAt_of_mem_opsNopImm v op hop) (fun _ => rfl)
      fun v s h _ => ⟨_, exec_nopImm h op v, rfl⟩
  case zp =>
    exact fun op hop => encodedTwo_of_decodeAt (fun b => decodeAt_of_mem_opsNopZp b op hop) (fun _ => rfl)
      fun b => costs_of_nop fun s h => exec_nopZp h op b
  case zpx =>
    exact fun op hop => encodedTwo_of_decodeAt (fun b => decodeAt_of_mem_opsNopZpx b op hop) (fun _ => rfl)
      fun b => costs_of_nop fun s h => exec_nopZpx h op b
  case abs => exact fun b1 b2 => ⟨rfl, rfl, costs_of_nop fun s h => exec_nopAbs h _⟩
  case absx =>
    exact fun op hop b1 b2 => ⟨decodeAt_of_mem_opsNopAbsx b1 b2 op hop, rfl, costs_of_nop fun s h => exec_nopAbsx h op _⟩
  case sbc => exact fun v => ⟨fun _ => rfl, rfl, fun s h _ => ⟨_, exec_sbcEB h v, rfl⟩⟩

/-- Settles O39: a gated byte is absent with the gate shut, and an absent byte's instruction is the fault alone. -/
theorem gatedFaultsWhenDisabled : Obligations.GatedFaultsWhenDisabled :=
  ⟨fun i s hkind hshut => exec_of_isAbsent ((isAbsent_iff_kindOf s.par i).2 (.inr ⟨hkind, hshut⟩)),
    fun op b1 b2 => ⟨kindOf_decodeAt_eq_gated_iff op b1 b2, decodeAt_opcode op b1 b2⟩⟩

end Sys2Proof.Claims
end

section
/-! PROOFS. The family 60_exceptions: what stops a step and what does not (O40, O41), and NMI entry (O42). -/

namespace Sys2Proof.Claims

open Sys2Proof.Machine

/-! ### What an instruction does to run (R331, R333) -/

/-- An instruction whose opcode byte is present completes and leaves run alone. The cases are the access classes (R162), whose
operations do not touch run, and below them the instructions that go by the stack, a vector or a jump. -/
theorem exec_keeps_run_of_present {i : Instr} {s : State} (h : i.isAbsent s.par = false) :
    ∃ t, exec i s = .next t ∧ t.run = s.run := by
  cases i with dsimp only [exec]
  | lda m | ldx m | ldy m | adc m | sbc m | and m | ora m | eor m | bit m | cmp m | cpx m | cpy m | lax m =>
    exact ⟨_, readClass_next m _ s, rfl⟩
  | sta m | stx m | sty m | sax m => exact ⟨_, writeClass_next m _ s, rfl⟩
  | inc m | dec m | asl m | lsr m | rol m | ror m | slo m | rla m | sre m | rra m | dcp m | isc m =>
    exact ⟨_, modifyClass_next m _ _ s, rfl⟩
  | tax | tay | txa | tya | tsx | txs | inx | iny | dex | dey | aslA | lsrA | rolA | rorA
  | clc | sec | cli | sei | cld | sed | clv | nop | pha | php | pla | plp =>
    exact ⟨_, registerClass_next _ _ s, rfl⟩
  | bpl d | bmi d | bvc d | bvs d | bcc d | bcs d | bne d | beq d =>
    refine ⟨_, branchClass_next _ d s, ?_⟩
    split <;> rfl
  | jmp | jmpInd | jsr | rts | brk | rti =>
    exact ⟨_, rfl, by simp [State.push16, State.pull16_spec, State.enterHandler_spec, State.returnFromHandler_spec]⟩
  | nopImp | nopImm | nopZp | nopZpx | nopAbs | nopAbsx | sbcEB =>
    have hopen : s.par.extraUnofficial = true := by simpa [Instr.isAbsent] using h
    exact ⟨_, (gated_open hopen _ _).trans rfl, rfl⟩
  | unimplemented => cases h

/-- Every instruction completes; run changes for an absent opcode byte, and then nothing else does. -/
theorem exec_completes (i : Instr) (s : State) : ∃ t, exec i s = .next t ∧
    if i.isAbsent s.par then t = { s with run := .faulted i.opcode s.pc } else t.run = s.run := by
  cases habs : i.isAbsent s.par with
  | true => exact ⟨_, exec_of_isAbsent habs, rfl⟩
  | false => exact exec_keeps_run_of_present habs

/-- A step of a running CORE completes, and it takes the fault exactly when the fetched opcode byte is absent. -/
theorem step_completes {s : State} (hr : s.run = .running) : ∃ t, step s = .next t ∧
    ((∃ op pc0, t.run = .faulted op pc0) ↔ s.fetchInstr.isAbsent s.par = true) := by
  have hpar : s.fetched.par = s.par := by rw [State.fetched_state]
  have hrun : s.fetched.run = .running := by rw [State.fetched_state, hr]
  obtain ⟨t, ht, hcase⟩ := exec_completes s.fetchInstr s.fetched
  refine ⟨t, (step_of_running hr).trans ht, ?_⟩
  rw [hpar] at hcase
  split at hcase
  next habs => simp [hcase, habs]
  next habs => simp [hcase, habs, hrun]

/-- A step that fetches an absent opcode byte reads that byte alone and takes the fault (R331). -/
theorem step_of_isAbsent {s : State} (hr : s.run = .running) (habs : (decodeAt (s.peek s.pc) 0 0).isAbsent s.par = true) :
    step s = .next { s with run := .faulted (s.peek s.pc) s.pc, bus := [.read s.pc (s.peek s.pc)] } := by
  obtain ⟨hstep, -⟩ := stepRunsDecodedInstruction s hr
  rw [← decodeAt_isAbsent s.par _ (s.peek (s.pc + 1)) (s.peek (s.pc + 2))] at habs
  rw [hstep, if_pos habs, exec_of_isAbsent (s := { s with bus := fetchReads s 1 }) habs, decodeAt_opcode]
  simp [State.raiseUnimplemented, fetchReads]

/-! ### The statements -/

/-- Settles O41: by what every instruction does to run, the step's at the fetched instruction. -/
theorem nothingElseTraps : Obligations.NothingElseTraps := ⟨exec_completes, fun _ hr => step_completes hr⟩

/-- Settles O40: the absent bytes by their list, and the step into the fault, after which run answers every call. -/
theorem unimplementedOpcodeFault : Obligations.UnimplementedOpcodeFault := by
  refine ⟨fun _ _ => rfl, ?step, kindOf_decodeAt_eq_absent_iff, fun _ _ => rfl⟩
  case step =>
    rintro s op hr rfl hkind
    exact ⟨_, step_of_isAbsent hr ((isAbsent_iff_kindOf _ _).2 hkind), rfl, faultedCoreAcceptsNothing _ _ _ rfl⟩

/-- Settles O42: the handler at $FFFA, entered from PC with the status byte of R342, which is P packed with B clear. -/
theorem nmiEntry : Obligations.NmiEntry := by
  intro s hr
  refine ⟨?_, pack_clear_b s.p⟩
  simp [nmiCall_of_running hr, State.enterHandler_spec, State.newTransition, State.addCycles, pushedByNmi, vecNmi]

end Sys2Proof.Claims
end

section
/-! PROOFS. The family 70_reset_and_hazards: reset and power-on (O44, O45, O46), the cycle penalties (O48), and the normal
end of a run (O49). -/

namespace Sys2Proof.Claims

open Sys2Proof.Machine

/-! ### reset() (R370) -/

/-- `reset()` on a running CORE: PC from $FFFC (R370). -/
theorem resetCall_of_running {s : State} (hr : s.run = .running) :
    resetCall s = .next (s.newTransition.loadVector vecReset) := by
  simp only [resetCall, whenRunning, hr]

/-! ### The cycle penalties (R386) -/

/-- The model's crossing test is the statements': the base of each indexed mode against its effective address. -/
theorem crossesPage_eq_crosses (s : State) (m : Mode) : s.crossesPage m = crosses s m := by
  cases m with
  | absx w | absy w => exact bne_comm
  | izy b =>
    simp only [crosses, ← zeroPage_zero b]
    exact bne_comm
  | _ => rfl

theorem readPenalty_eq (s : State) (m : Mode) :
    s.readPenalty m = if s.par.cyclePenalties && crosses s m then 1 else 0 := by
  rw [State.readPenalty, crossesPage_eq_crosses]

/-- An access that crosses no page costs the mode's base cost, whatever the parameter. -/
theorem afterRead_cyc_of_not_crosses {s : State} {m : Mode} (h : crosses s m = false) :
    (afterRead s m).cyc = s.cyc + BitVec.ofNat 64 (readCost m) := by
  simp [afterRead, done, readPenalty_eq, h]

theorem branchPenalty_eq (par : Params) (pcn target : Addr) :
    branchPenalty par pcn target =
      if par.cyclePenalties then (if hiByte target = hiByte pcn then 1 else 2) else 0 := by
  simp only [branchPenalty, pagesDiffer, bne_iff_ne, ne_comm (a := hiByte pcn), ne_eq, ite_not]

section Classes

variable {i : Mode → Instr} (m : Mode) (s : State)

/-- A listed Read-class instruction counts its mode's base cost and penalty: the operation on the operand counts nothing. -/
theorem exec_cyc_of_mem_readers (hi : i ∈ readers) : ∃ t, exec (i m) s = .next t ∧
    t.cyc = s.cyc + BitVec.ofNat 64 (readCost m + s.readPenalty m) := by
  simp only [readers, List.mem_cons, List.not_mem_nil, or_false] at hi
  rcases hi with rfl | rfl | rfl | rfl | rfl | rfl | rfl | rfl | rfl | rfl | rfl | rfl | rfl <;>
  (dsimp only [exec]; exact ⟨_, readClass_next m _ s, rfl⟩)

/-- A listed Write-class instruction counts its mode's base cost. -/
theorem exec_cyc_of_mem_writers (hi : i ∈ writers) : ∃ t, exec (i m) s = .next t ∧
    t.cyc = s.cyc + BitVec.ofNat 64 (writeCost m) := by
  simp only [writers, List.mem_cons, List.not_mem_nil, or_false] at hi
  rcases hi with rfl | rfl | rfl | rfl <;>
  (dsimp only [exec]; exact ⟨_, writeClass_next m _ s, rfl⟩)

/-- A listed Read-modify-write instruction counts its mode's base cost: neither micro-operation counts anything. -/
theorem exec_cyc_of_mem_modifiers (hi : i ∈ modifiers) : ∃ t, exec (i m) s = .next t ∧
    t.cyc = s.cyc + BitVec.ofNat 64 (modifyCost m) := by
  simp only [modifiers, List.mem_cons, List.not_mem_nil, or_false] at hi
  rcases hi with rfl | rfl | rfl | rfl | rfl | rfl | rfl | rfl | rfl | rfl | rfl | rfl <;>
  (dsimp only [exec]; exact ⟨_, modifyClass_next m _ _ s, rfl⟩)

end Classes

/-! ### The normal end (R389) -/

theorem normalEnd_iff (e : Addr) (s : State) :
    normalEnd e s = true ↔
      s.run = .running ∧ s.pc = e ∧ s.peek e = 0x4C ∧ s.peek (e + 1) = loByte e ∧ s.peek (e + 2) = hiByte e := by
  simp [normalEnd, running, and_assoc]

/-- JMP to its own address: PC is where it was, three cycles later. -/
theorem step_of_normalEnd {e : Addr} {s : State} (h : normalEnd e s = true) :
    ∃ l, step s = .next { s with cyc := s.cyc + 3, bus := l } := by
  obtain ⟨hr, hpc, hop, hlo, hhi⟩ := (normalEnd_iff e s).1 h
  obtain ⟨hstep, -⟩ := stepRunsDecodedInstruction s hr
  rw [hpc, hop, hlo, hhi] at hstep
  have hdecode : decodeAt 0x4C (loByte e) (hiByte e) = .jmp e := congrArg Instr.jmp (wordOf_bytes e)
  rw [hdecode] at hstep
  subst hpc
  exact ⟨_, hstep⟩

/-! ### The statements -/

/-- Settles O44: PC by the two reads of the vector. -/
theorem resetCallWritesPcOnly : Obligations.ResetCallWritesPcOnly := by
  intro s hr
  rw [resetCall_of_running hr, State.loadVector_spec]
  rfl

/-- Settles O45: the profile's registers are the state's, its status byte is packed back with U = 1; then reset() as ever. -/
theorem powerOnAndReset : Obligations.PowerOnAndReset :=
  fun _ r _ => ⟨⟨rfl, rfl, rfl, rfl, rfl, pack_unpack r.p, rfl, rfl, rfl⟩, _, resetCallWritesPcOnly _ rfl, rfl, rfl⟩

/-- Settles O46: reset() of the reference profile with empty memory, as the state in full. -/
theorem resetStateIsReferenceProfile : Obligations.ResetStateIsReferenceProfile :=
  ⟨resetCallWritesPcOnly _ rfl, rfl, rfl, rfl, rfl, rfl, rfl, rfl, rfl, rfl⟩

/-- Settles O48: each access class counts its base cost and its own penalty; the gated forms are Read-class, and of them only
the one at abs,X can cross a page. -/
theorem cyclePenalties : Obligations.CyclePenalties := by
  refine ⟨?readers, ?nopAbsx, ?gated, fun _ hi m s => exec_cyc_of_mem_writers m s hi,
    fun _ hi m s => exec_cyc_of_mem_modifiers m s hi, ?branches⟩
  case readers =>
    intro i hi m s
    rw [← readPenalty_eq]
    exact exec_cyc_of_mem_readers m s hi
  case nopAbsx =>
    intro op w s hopen
    refine ⟨_, exec_nopAbsx hopen op w, ?_⟩
    rw [← readPenalty_eq]
    rfl
  case gated =>
    exact fun op b w s hopen => ⟨⟨_, exec_nopImm hopen op b, rfl⟩,
      ⟨_, exec_nopZp hopen op b, afterRead_cyc_of_not_crosses rfl⟩,
      ⟨_, exec_nopZpx hopen op b, afterRead_cyc_of_not_crosses rfl⟩,
      ⟨_, exec_nopAbs hopen w, afterRead_cyc_of_not_crosses rfl⟩, ⟨_, exec_sbcEB hopen b, rfl⟩⟩
  case branches =>
    intro i op cond hrow d s
    obtain ⟨hexec, -⟩ := exec_and_decodeAt_of_mem_branches hrow
    refine ⟨_, (hexec d s).trans (branchClass_next _ d s), ?_⟩
    cases hcond : cond s.p with
    | true => simp [branchPenalty_eq, branchTarget]
    | false => simp

/-- Settles O49: the step changes cyc and the transactions alone, and what makes a state a normal end reads neither. -/
theorem normalEndIsFixpoint : Obligations.NormalEndIsFixpoint := by
  intro e s h
  obtain ⟨l, hstep⟩ := step_of_normalEnd h
  exact ⟨_, hstep, rfl, h⟩

end Sys2Proof.Claims
end
